-- ==== Sys2Proof/Word.lean ====
section
/-! DEFINITION. The element types of the engine's data: 64-bit words, bytes and UTF-16 code units
(00_scope.md R8, R13, R18). Their plain arithmetic is `BitVec`'s: `+` and `-` wrap modulo 2^64 and `^^^` is
bitwise (R14, 41_word_arith.md R110). -/

namespace Sys2Proof

/-- A cipher word, W = 64 bits, unsigned (R8, R13). -/
abbrev Word := BitVec 64

/-- A byte, unsigned (R18). -/
abbrev Byte := BitVec 8

/-- A UTF-16 code unit, a 16-bit number with no byte order (R18, 20_memory.md R65, R74). -/
abbrev CodeUnit := BitVec 16

/-- What one draw of the RNG capability answers: 16 bytes (10_state.md R40). -/
abbrev Iv := Vector Byte 16

end Sys2Proof
end

