-- ==== Sys2Proof/Config.lean ====
section
/-! DEFINITION. What is fixed for one engine: the build parameters (00_scope.md R10, R11; 10_state.md R42), the
free values, and the identity (00_scope.md R4). -/

namespace Sys2Proof

/-- `EMPTY_KEY_POLICY` (00_scope.md R11 (a); 42_key_schedule.md R149). -/
inductive EmptyKeyPolicy where
  | accept
  | reject
  deriving DecidableEq, Repr

/-- `UNPAD_POLICY` (00_scope.md R11 (b); 44_padding.md R193). -/
inductive UnpadPolicy where
  | failOpen
  | failClosed
  deriving DecidableEq, Repr

/-- `KS_STORE` (00_scope.md R11 (c); 42_key_schedule.md R142; 90_conflicts.md C1). -/
inductive KsStore where
  | sumOnly
  | rotated
  deriving DecidableEq, Repr

/-- The build parameters of one engine. No command reads them as registers and none writes them (10_state.md
R42). `maxPayload = none` is "unbounded" (00_scope.md R10). -/
structure Build where
  maxPayload : Option Nat
  emptyKey   : EmptyKeyPolicy
  unpad      : UnpadPolicy
  ksStore    : KsStore
  deriving DecidableEq, Repr

namespace Config

/-- The defaults the spec gives the build parameters (00_scope.md R10, R11). -/
def defaultBuild : Build :=
  { maxPayload := none, emptyKey := .accept, unpad := .failOpen, ksStore := .sumOnly }

/-- FREE VALUE (10_state.md R40; 93_implementation_defined.md I2; log 3): the answer to draw number `n` where
the platform has put none into `State.rng`. Nothing constrains it. -/
opaque freeDraw : Nat → Iv

/-- FREE VALUE (93_implementation_defined.md I1; log 11): what word `i` of the subkey table reads as where the
table has no word `i`. No command reaches it from a state that meets the invariant of 10_state.md R39. -/
opaque freeSubkey : Nat → Word

/-- The 32-bit constants the spec records for a future variant; no command reaches them (00_scope.md R12). -/
def p32 : BitVec 32 := 0xB7E15163#32

/-- See `p32` (00_scope.md R12). -/
def q32 : BitVec 32 := 0x9E3779B9#32

/-- The engine's identity string for round count `r` and key length `b` in bytes (00_scope.md R4). It is a
name only: no command returns it. -/
def identity (r b : Nat) : String :=
  "RC5-64/" ++ toString r ++ "/" ++ toString b ++ "-CBC-PAD-UTF8-B64"

end Config

end Sys2Proof
end

