-- ==== Sys2Proof/Syntax.lean ====
section
/-! DEFINITION. The commands (one constructor per row of spec/opcode_table.json, 30_encoding.md R85), the fields
of format K (R81), payloads (00_scope.md R18) and the pseudo-commands (30_encoding.md R90). -/

namespace Sys2Proof

/-- The fields of a format-K command word (30_encoding.md R81). The reserved field RSV is 0 in every legal word
and has no place here. -/
structure KFields where
  /-- WSL: log2 of the requested word size. -/
  wsl    : BitVec 3
  /-- DW: use the default word size. -/
  dw     : Bool
  /-- DR: use the default round count. -/
  dr     : Bool
  /-- ROUNDS: the requested round count, unsigned. -/
  rounds : BitVec 16
  deriving DecidableEq, Repr

/-- The 24 commands (30_encoding.md R85). Only the two key setups carry fields (R84). -/
inductive Instr where
  | keyset (k : KFields)
  | keysetb (k : KFields)
  | skread
  | cfgrd
  | encblk
  | decblk
  | cbcenc
  | cbcdec
  | pad
  | unpad
  | utf8enc
  | utf8dec
  | b64enc
  | b64dec
  | hexof
  | wadd
  | wsub
  | wxor
  | wrotl
  | wrotr
  | b2w
  | w2b
  | encrypt
  | decrypt
  deriving DecidableEq, Repr

/-- A payload: exactly one of the three kinds (00_scope.md R18). A `words` element is a number and has no byte
order (20_memory.md R65). -/
inductive Payload where
  | bytes (bs : List Byte)
  | text (us : List CodeUnit)
  | words (ws : List Word)
  deriving DecidableEq, Repr

/-- The payload kinds, named for the opcode map's "in" and "out" columns (30_encoding.md R85). -/
inductive Kind where
  | bytes
  | text
  | words
  deriving DecidableEq, Repr

/-- The kind of a payload. -/
def Payload.kind : Payload → Kind
  | .bytes _ => .bytes
  | .text _ => .text
  | .words _ => .words

/-- The length of a payload in elements: bytes, code units or words (00_scope.md R10). -/
def Payload.length : Payload → Nat
  | .bytes bs => bs.length
  | .text us => us.length
  | .words ws => ws.length

/-- The pseudo-commands (30_encoding.md R90): a key setup with its round count, its word size or both left to
the defaults. -/
inductive Pseudo where
  /-- `KEYSET "k"`. -/
  | keyset
  /-- `KEYSET r, "k"`. -/
  | keysetRounds (r : BitVec 16)
  /-- `KEYSETB [b..]`. -/
  | keysetb
  /-- `KEYSETB r, [b..]`. -/
  | keysetbRounds (r : BitVec 16)
  deriving DecidableEq, Repr

end Sys2Proof
end

