-- ==== Sys2Proof/WellFormed.lean ====
section
/-! DEFINITION. Which terms of `Instr` have a command word: the two conditions of 30_encoding.md R86 on the
fields of format K. The other conditions of R86 concern bits a term does not carry. -/

namespace Sys2Proof

/-- R86 (d): DW = 1 requires WSL = 0. -/
def KFields.wslOk (k : KFields) : Bool := !k.dw || k.wsl == 0#3

/-- R86 (e): DR = 1 requires ROUNDS = 0. -/
def KFields.roundsOk (k : KFields) : Bool := !k.dr || k.rounds == 0#16

/-- The fields of a legal format-K word (30_encoding.md R86 (d), (e)). -/
def KFields.wellFormed (k : KFields) : Bool := k.wslOk && k.roundsOk

/-- A command that some command word stands for. -/
def Instr.wellFormed : Instr → Bool
  | .keyset k => k.wellFormed
  | .keysetb k => k.wellFormed
  | .skread => true
  | .cfgrd => true
  | .encblk => true
  | .decblk => true
  | .cbcenc => true
  | .cbcdec => true
  | .pad => true
  | .unpad => true
  | .utf8enc => true
  | .utf8dec => true
  | .b64enc => true
  | .b64dec => true
  | .hexof => true
  | .wadd => true
  | .wsub => true
  | .wxor => true
  | .wrotl => true
  | .wrotr => true
  | .b2w => true
  | .w2b => true
  | .encrypt => true
  | .decrypt => true

end Sys2Proof
end

