-- ==== Sys2Proof/Decode.lean ====
section
/-! DEFINITION. The decoder of command words, total and rejecting by name (30_encoding.md R86, R87), and after it
the encoder, written from the same tables (R81, R82, R85). The command word is one 32-bit number of fixed length
with no byte order (R80, R88; log 9). -/

namespace Sys2Proof

/-- Why a command word is illegal: the five conditions of 30_encoding.md R86. Each raises `IllegalCommand`. -/
inductive DecodeError where
  /-- (a) OPC is not in the opcode map. -/
  | unassignedOpcode
  /-- (b) format N, bits [31:8] not all zero. -/
  | reservedBitsN
  /-- (c) format K, RSV not zero. -/
  | reservedBitsK
  /-- (d) DW = 1 and WSL not 0. -/
  | wslWithDefault
  /-- (e) DR = 1 and ROUNDS not 0. -/
  | roundsWithDefault
  deriving DecidableEq, Repr

/-- Bits [hi:lo] of a command word (00_scope.md R13). -/
def bits (w : BitVec 32) (hi lo : Nat) : BitVec (hi - lo + 1) := w.extractLsb' lo (hi - lo + 1)

/-- The fields of a format-K word (30_encoding.md R81). -/
def kFields (w : BitVec 32) : KFields :=
  { wsl := bits w 10 8, dw := bits w 11 11 == 1#1, dr := bits w 12 12 == 1#1, rounds := bits w 31 16 }

/-- The format-N rows of the opcode map (30_encoding.md R85). -/
def opcodeN (opc : BitVec 8) : Option Instr :=
  match opc.toNat with
  | 0x03 => some .skread
  | 0x04 => some .cfgrd
  | 0x10 => some .encblk
  | 0x11 => some .decblk
  | 0x20 => some .cbcenc
  | 0x21 => some .cbcdec
  | 0x30 => some .pad
  | 0x31 => some .unpad
  | 0x40 => some .utf8enc
  | 0x41 => some .utf8dec
  | 0x42 => some .b64enc
  | 0x43 => some .b64dec
  | 0x44 => some .hexof
  | 0x50 => some .wadd
  | 0x51 => some .wsub
  | 0x52 => some .wxor
  | 0x53 => some .wrotl
  | 0x54 => some .wrotr
  | 0x55 => some .b2w
  | 0x56 => some .w2b
  | 0x60 => some .encrypt
  | 0x61 => some .decrypt
  | _ => none

/-- A format-K word after its opcode: RSV, then the DW/WSL and DR/ROUNDS pairs (30_encoding.md R86 (c) to (e),
R87). -/
def decodeK (make : KFields → Instr) (w : BitVec 32) : Except DecodeError Instr :=
  if bits w 15 13 ≠ 0 then .error .reservedBitsK
  else if !(kFields w).wslOk then .error .wslWithDefault
  else if !(kFields w).roundsOk then .error .roundsWithDefault
  else .ok (make (kFields w))

/-- A format-N word: the opcode map, then bits [31:8] (30_encoding.md R86 (a), (b), R87). -/
def decodeN (w : BitVec 32) : Except DecodeError Instr :=
  match opcodeN (bits w 7 0) with
  | none => .error .unassignedOpcode
  | some i => if bits w 31 8 ≠ 0 then .error .reservedBitsN else .ok i

/-- The decoder: every 32-bit word is exactly one command or is refused by name; it looks at the word alone
(30_encoding.md R87). -/
def decode (w : BitVec 32) : Except DecodeError Instr :=
  if bits w 7 0 = 0x01#8 then decodeK .keyset w
  else if bits w 7 0 = 0x02#8 then decodeK .keysetb w
  else decodeN w

/-- The 32-bit command word whose bits, numbered as spec/opcode_table.json numbers them, are the low `nbits`
bits of `w`, the bits above being 0. -/
def tableWord (nbits w : Nat) : BitVec 32 := BitVec.ofNat 32 (w % 2 ^ nbits)

/-- What the decoder reads from the command word of `tableWord`. -/
def decodeTableWord (nbits w : Nat) : Option Instr :=
  match decode (tableWord nbits w) with
  | .ok i => some i
  | .error _ => none

/-! ## Encoder -/

/-- The opcode of a command (30_encoding.md R85). -/
def Instr.opcode : Instr → BitVec 8
  | .keyset _ => 0x01#8
  | .keysetb _ => 0x02#8
  | .skread => 0x03#8
  | .cfgrd => 0x04#8
  | .encblk => 0x10#8
  | .decblk => 0x11#8
  | .cbcenc => 0x20#8
  | .cbcdec => 0x21#8
  | .pad => 0x30#8
  | .unpad => 0x31#8
  | .utf8enc => 0x40#8
  | .utf8dec => 0x41#8
  | .b64enc => 0x42#8
  | .b64dec => 0x43#8
  | .hexof => 0x44#8
  | .wadd => 0x50#8
  | .wsub => 0x51#8
  | .wxor => 0x52#8
  | .wrotl => 0x53#8
  | .wrotr => 0x54#8
  | .b2w => 0x55#8
  | .w2b => 0x56#8
  | .encrypt => 0x60#8
  | .decrypt => 0x61#8

/-- A format-K word: ROUNDS, RSV = 0, DR, DW, WSL, OPC from the top bit down (30_encoding.md R81). -/
def encodeK (opc : BitVec 8) (k : KFields) : BitVec 32 :=
  k.rounds ++ 0#3 ++ BitVec.ofBool k.dr ++ BitVec.ofBool k.dw ++ k.wsl ++ opc

/-- A format-N word: RSV = 0, OPC (30_encoding.md R82). -/
def encodeN (opc : BitVec 8) : BitVec 32 := 0#24 ++ opc

/-- The command word of a command. -/
def encode (i : Instr) : BitVec 32 :=
  match i with
  | .keyset k => encodeK i.opcode k
  | .keysetb k => encodeK i.opcode k
  | .skread => encodeN i.opcode
  | .cfgrd => encodeN i.opcode
  | .encblk => encodeN i.opcode
  | .decblk => encodeN i.opcode
  | .cbcenc => encodeN i.opcode
  | .cbcdec => encodeN i.opcode
  | .pad => encodeN i.opcode
  | .unpad => encodeN i.opcode
  | .utf8enc => encodeN i.opcode
  | .utf8dec => encodeN i.opcode
  | .b64enc => encodeN i.opcode
  | .b64dec => encodeN i.opcode
  | .hexof => encodeN i.opcode
  | .wadd => encodeN i.opcode
  | .wsub => encodeN i.opcode
  | .wxor => encodeN i.opcode
  | .wrotl => encodeN i.opcode
  | .wrotr => encodeN i.opcode
  | .b2w => encodeN i.opcode
  | .w2b => encodeN i.opcode
  | .encrypt => encodeN i.opcode
  | .decrypt => encodeN i.opcode

/-- The real command a pseudo-command stands for (30_encoding.md R90). -/
def Pseudo.expand : Pseudo → Instr
  | .keyset => .keyset { wsl := 0, dw := true, dr := true, rounds := 0 }
  | .keysetRounds r => .keyset { wsl := 0, dw := true, dr := false, rounds := r }
  | .keysetb => .keysetb { wsl := 0, dw := true, dr := true, rounds := 0 }
  | .keysetbRounds r => .keysetb { wsl := 0, dw := true, dr := false, rounds := r }

end Sys2Proof
end

