-- ==== Sys2Proof/Machine/State.lean ====
section
/-! DEFINITION. The state of the engine and of its channels to the host and the RNG (10_state.md; 20_memory.md
R61; 70_reset_and_hazards.md R344, R348), as plain data, and its value at reset (10_state.md R45). -/

namespace Sys2Proof.Machine

/-- The named errors (60_exceptions.md R300, all codes but OK). An error is no trap: it is a status in the
response of a command that runs to its end (R303, R313). -/
inductive ErrorKind where
  | invalidRounds
  | unsupportedWordSize
  | invalidCiphertext
  | paddingValidationFailure
  | illegalCommand
  | malformedPayload
  | notKeyed
  | emptyKeyRejected
  deriving DecidableEq, Repr

/-- A response: an 8-bit status code and, exactly when the status is OK, an output payload (20_memory.md R61). -/
structure Response where
  st  : BitVec 8
  out : Option Payload
  deriving DecidableEq, Repr

/-- What the host can do to the engine (70_reset_and_hazards.md R344). -/
inductive HostMove where
  /-- A command: a command word and its whole input payload (20_memory.md R61). -/
  | command (word : BitVec 32) (payload : Payload)
  /-- A reset between commands (70_reset_and_hazards.md R340). -/
  | reset
  /-- A command that a reset interrupts (70_reset_and_hazards.md R340; log 7). -/
  | interrupted (word : BitVec 32) (payload : Payload)
  deriving DecidableEq, Repr

/-- Why a step could stop the machine. There is no such reason: an error is a status (60_exceptions.md R303) and
"The model itself has no stuck state" (93_implementation_defined.md I17; log 10). -/
inductive Fault where
  deriving DecidableEq, Repr

/-- Why an instruction could have no meaning. -/
inductive Refusal where
  /-- Raised by an arm of `exec` whose instruction has no meaning yet. Safe: the machine stops. No arm is left
  so. -/
  | notModelled (mnemonic : String)
  deriving DecidableEq, Repr

/-- The whole state. -/
structure State where
  /-- STATUS: the status code of the most recent command (10_state.md R33). -/
  status    : BitVec 8
  /-- KEYVALID: 1 exactly when a subkey table exists (10_state.md R34). -/
  keyValid  : BitVec 1
  /-- CFG_ROUNDS: the round count of the current table (10_state.md R35). -/
  cfgRounds : BitVec 8
  /-- CFG_WSIZE: the word size in bits of the current table (10_state.md R37). -/
  cfgWsize  : BitVec 8
  /-- S, the subkey table, word 0 first (10_state.md R36). -/
  table     : List Word
  /-- The build parameters, the same in every state of a run (10_state.md R42; log 2). -/
  build     : Build
  /-- `in`, the input payload of the command being executed (00_scope.md R17; log 4). -/
  input     : Payload
  /-- The responses given since the last reset, newest first (70_reset_and_hazards.md R348; log 5). -/
  responses : List Response
  /-- The host's moves not yet taken, oldest first (10_state.md R32, 20_memory.md R70; log 1). -/
  host      : List HostMove
  /-- The RNG's answers ready to be drawn, oldest first (10_state.md R40; log 3). -/
  rng       : List Iv
  /-- How many draws have been taken (log 3). -/
  draws     : Nat
  deriving DecidableEq, Repr

/-- What one step, or one command, answers. -/
abbrev Result := Host.Outcome State Fault Refusal

/-- The state right after reset (10_state.md R45, 70_reset_and_hazards.md R340): the registers at the values of
R45, the build parameters at the spec's defaults (00_scope.md R10, R11), and nothing sent, answered or drawn
(logs 1 to 6). -/
def State.reset : State :=
  { status := 0x00#8, keyValid := 0#1, cfgRounds := 0#8, cfgWsize := 0#8, table := [],
    build := Config.defaultBuild, input := .bytes [], responses := [], host := [], rng := [], draws := 0 }

end Sys2Proof.Machine
end

