-- ==== Sys2Proof/Machine/Flags.lean ====
section
/-! DEFINITION. The engine's status codes and its one flag. It has no condition codes, carry or overflow
(10_state.md R41). -/

namespace Sys2Proof.Machine

/-- The code of a successful command (60_exceptions.md R300). -/
def okCode : BitVec 8 := 0x00#8

/-- The code of an error (60_exceptions.md R300). -/
def errorCode : ErrorKind → BitVec 8
  | .invalidRounds => 0x01#8
  | .unsupportedWordSize => 0x02#8
  | .invalidCiphertext => 0x03#8
  | .paddingValidationFailure => 0x04#8
  | .illegalCommand => 0x05#8
  | .malformedPayload => 0x06#8
  | .notKeyed => 0x07#8
  | .emptyKeyRejected => 0x08#8

/-- The four classes of errors (60_exceptions.md R301). -/
inductive ErrorClass where
  | decode
  | payload
  | state
  | data
  deriving DecidableEq, Repr

/-- The class of an error: what it is found from (60_exceptions.md R301). -/
def errorClass : ErrorKind → ErrorClass
  | .illegalCommand => .decode
  | .malformedPayload => .payload
  | .notKeyed => .state
  | .invalidRounds => .data
  | .unsupportedWordSize => .data
  | .emptyKeyRejected => .data
  | .invalidCiphertext => .data
  | .paddingValidationFailure => .data

/-- KEYVALID = 1 (10_state.md R34, 00_scope.md R21). -/
def isKeyed (s : State) : Bool := s.keyValid == 1#1

end Sys2Proof.Machine
end

