-- ==== Sys2Proof/Machine/Ops.lean ====
section
/-! DEFINITION. The shared operations: ending a command with a result or with an error, the RNG draw, reading and
installing the subkey table, taking a command from the host, and reset. The engine has no memory (20_memory.md
R60) and no trap (60_exceptions.md R313, R314): raising an error is the one form of exception it has, and nothing
is saved that would have to be restored. -/

namespace Sys2Proof.Machine

/-- `return v`: end the command with status OK and output `v` (00_scope.md R17, 20_memory.md R61). -/
def respond (v : Payload) (s : State) : State :=
  { s with status := okCode, responses := { st := okCode, out := some v } :: s.responses }

/-- `raise E`: end the command with status E. It writes no state but STATUS, draws nothing, and its response
carries no output (00_scope.md R17, 60_exceptions.md R303). -/
def raise (e : ErrorKind) (s : State) : State :=
  { s with status := errorCode e, responses := { st := errorCode e, out := none } :: s.responses }

/-- `Draw16()`: ask the RNG capability for 16 bytes (10_state.md R40). It always answers (70_reset_and_hazards.md
R345): with what the platform has ready, and otherwise with the free value (log 3). -/
def draw16 (s : State) : Iv × State :=
  match s.rng with
  | iv :: rest => (iv, { s with rng := rest, draws := s.draws + 1 })
  | [] => (Config.freeDraw s.draws, { s with draws := s.draws + 1 })

/-- `S[i]`: word i of a subkey table (00_scope.md R16). Outside the table, which no run reaches (10_state.md
R39), it is a free value (log 11). -/
def subkey (S : List Word) (i : Nat) : Word := S.getD i (Config.freeSubkey i)

/-- T = 2*(CFG_ROUNDS+1), the length of the table a round count asks for (10_state.md R36). -/
def tableLength (r : Nat) : Nat := 2 * (r + 1)

/-- `S <- Snew; CFG_ROUNDS <- r_eff; CFG_WSIZE <- 64; KEYVALID <- 1`, in one step (42_key_schedule.md R145,
10_state.md R38). -/
def installTable (r : Nat) (S : List Word) (s : State) : State :=
  { s with table := S, cfgRounds := BitVec.ofNat 8 r, cfgWsize := 64#8, keyValid := 1#1 }

/-- Take a command from the host: its payload becomes `in`, and `rest` is what the host sends later
(20_memory.md R61, R70). -/
def acceptCommand (p : Payload) (rest : List HostMove) (s : State) : State :=
  { s with input := p, host := rest }

/-- Reset (70_reset_and_hazards.md R340): the reset state, whatever came before. The build parameters and the RNG
are not reached (R341), and the host's later moves `rest` are the host's. -/
def resetEngine (rest : List HostMove) (s : State) : State :=
  { State.reset with build := s.build, rng := s.rng, draws := s.draws, host := rest }

end Sys2Proof.Machine
end

