-- ==== Sys2Proof/Machine/Operands.lean ====
section
/-! DEFINITION. Every operand form: the payload of a command, checked for kind, length and MAX_PAYLOAD before
anything that reads state (20_memory.md R62, 60_exceptions.md R306), the KEYVALID check after it (R307), and the
effective parameters of a key setup (30_encoding.md R83). -/

namespace Sys2Proof.Machine

/-- A payload of `n` elements is within MAX_PAYLOAD (00_scope.md R10). -/
def fits (b : Build) (n : Nat) : Bool :=
  match b.maxPayload with
  | none => true
  | some m => n ≤ m

/-- The length rule "any length" (60_exceptions.md R306). -/
def anyLength (_ : Nat) : Bool := true

/-- A command that takes Bytes of a length `ok` allows; `k` is the rest of the command (60_exceptions.md R306). -/
def withBytes (ok : Nat → Bool) (s : State) (k : List Byte → State) : State :=
  match s.input with
  | .bytes bs => if ok bs.length && fits s.build bs.length then k bs else raise .malformedPayload s
  | .text _ => raise .malformedPayload s
  | .words _ => raise .malformedPayload s

/-- A command that takes Text; every such command takes any length (60_exceptions.md R306). -/
def withText (s : State) (k : List CodeUnit → State) : State :=
  match s.input with
  | .text us => if fits s.build us.length then k us else raise .malformedPayload s
  | .bytes _ => raise .malformedPayload s
  | .words _ => raise .malformedPayload s

/-- A command that takes Words of any length (60_exceptions.md R306). -/
def withWords (s : State) (k : List Word → State) : State :=
  match s.input with
  | .words ws => if fits s.build ws.length then k ws else raise .malformedPayload s
  | .bytes _ => raise .malformedPayload s
  | .text _ => raise .malformedPayload s

/-- The length rule "exactly 2 words" (60_exceptions.md R306). -/
def twoWords (s : State) (k : Word → Word → State) : List Word → State
  | [a, b] => k a b
  | _ => raise .malformedPayload s

/-- A command that takes exactly two words (60_exceptions.md R306). -/
def withTwoWords (s : State) (k : Word → Word → State) : State := withWords s (twoWords s k)

/-- A keyed command: `NotKeyed` while KEYVALID = 0 (60_exceptions.md R307). -/
def withKey (s : State) (k : State) : State := if isKeyed s then k else raise .notKeyed s

/-! ## Key-setup operands -/

/-- r_eff: the round count a key setup asks for, 0..65535 (30_encoding.md R83). -/
def rEff (k : KFields) : Nat := if k.dr then 12 else k.rounds.toNat

/-- wsl_eff: log2 of the word size a key setup asks for (30_encoding.md R83). -/
def wslEff (k : KFields) : Nat := if k.dw then 6 else k.wsl.toNat

/-- w_eff: the word size in bits a key setup asks for (30_encoding.md R83). -/
def wEff (k : KFields) : Nat := 2 ^ wslEff k

/-! ## The payload beside a bare command word -/

/-- A payload of a kind and length the command takes, for the transaction in which `State.withFetchWord` places a
bare command word: the shortest one (log 9). -/
def shortestPayload (i : Instr) : Payload :=
  match i with
  | .wadd => .words [0#64, 0#64]
  | .wsub => .words [0#64, 0#64]
  | .wxor => .words [0#64, 0#64]
  | .wrotl => .words [0#64, 0#64]
  | .wrotr => .words [0#64, 0#64]
  | .w2b => .words []
  | .keyset _ => .text []
  | .utf8enc => .text []
  | .b64dec => .text []
  | .encrypt => .text []
  | .decrypt => .text []
  | .keysetb _ => .bytes []
  | .skread => .bytes []
  | .cfgrd => .bytes []
  | .encblk => .bytes []
  | .decblk => .bytes []
  | .cbcenc => .bytes []
  | .cbcdec => .bytes []
  | .pad => .bytes []
  | .unpad => .bytes []
  | .utf8dec => .bytes []
  | .b64enc => .bytes []
  | .hexof => .bytes []
  | .b2w => .bytes []

end Sys2Proof.Machine
end

