-- ==== Sys2Proof/Machine/Base64.lean ====
section
/-! DEFINITION. Base64 (46_codecs.md R237 to R244) and the commands B64ENC and B64DEC. -/

namespace Sys2Proof.Machine

/-- The pad character `=` (46_codecs.md R237). -/
def padChar : CodeUnit := 0x3D#16

/-- The character of a value 0..63: `A`..`Z`, `a`..`z`, `0`..`9`, `+`, `/` (46_codecs.md R237). -/
def b64Char (v : BitVec 6) : CodeUnit :=
  if v.toNat < 26 then 0x41#16 + v.setWidth 16
  else if v.toNat < 52 then 0x61#16 + (v - 26#6).setWidth 16
  else if v.toNat < 62 then 0x30#16 + (v - 52#6).setWidth 16
  else if v.toNat = 62 then 0x2B#16
  else 0x2F#16

/-- The value of an alphabet character, none for every other code unit, `=` among them (46_codecs.md R237, R241
(b)). -/
def b64Value (c : CodeUnit) : Option (BitVec 6) :=
  if 0x41 ≤ c.toNat ∧ c.toNat ≤ 0x5A then some (BitVec.ofNat 6 (c.toNat - 0x41))
  else if 0x61 ≤ c.toNat ∧ c.toNat ≤ 0x7A then some (BitVec.ofNat 6 (c.toNat - 0x61 + 26))
  else if 0x30 ≤ c.toNat ∧ c.toNat ≤ 0x39 then some (BitVec.ofNat 6 (c.toNat - 0x30 + 52))
  else if c.toNat = 0x2B then some 62#6
  else if c.toNat = 0x2F then some 63#6
  else none

/-- B64Encode (46_codecs.md R240): groups of 3 bytes, a final group of 1 or 2 zero-filled and marked by `=`. -/
def b64Encode : List Byte → List CodeUnit
  | [] => []
  | [g0] =>
    let v := g0 ++ 0#8 ++ 0#8
    [b64Char (v.extractLsb' 18 6), b64Char (v.extractLsb' 12 6), padChar, padChar]
  | [g0, g1] =>
    let v := g0 ++ g1 ++ 0#8
    [b64Char (v.extractLsb' 18 6), b64Char (v.extractLsb' 12 6), b64Char (v.extractLsb' 6 6), padChar]
  | g0 :: g1 :: g2 :: rest =>
    let v := g0 ++ g1 ++ g2
    b64Char (v.extractLsb' 18 6) :: b64Char (v.extractLsb' 12 6) :: b64Char (v.extractLsb' 6 6) ::
      b64Char (v.extractLsb' 0 6) :: b64Encode rest

/-- Four alphabet characters: 3 bytes (46_codecs.md R241). -/
def b64Group (c0 c1 c2 c3 : CodeUnit) : Option (List Byte) :=
  match b64Value c0, b64Value c1, b64Value c2, b64Value c3 with
  | some v0, some v1, some v2, some v3 =>
    let v := v0 ++ v1 ++ v2 ++ v3
    some [v.extractLsb' 16 8, v.extractLsb' 8 8, v.extractLsb' 0 8]
  | _, _, _, _ => none

/-- A final group `xxx=`: 2 bytes, the last 2 bits ignored (46_codecs.md R241). -/
def b64Group3 (c0 c1 c2 : CodeUnit) : Option (List Byte) :=
  match b64Value c0, b64Value c1, b64Value c2 with
  | some v0, some v1, some v2 =>
    let v := v0 ++ v1 ++ v2
    some [v.extractLsb' 10 8, v.extractLsb' 2 8]
  | _, _, _ => none

/-- A final group `xx==`: 1 byte, the last 4 bits ignored (46_codecs.md R241). -/
def b64Group2 (c0 c1 : CodeUnit) : Option (List Byte) :=
  match b64Value c0, b64Value c1 with
  | some v0, some v1 => some [(v0 ++ v1).extractLsb' 4 8]
  | _, _ => none

/-- The last group of a text, the only one that may hold `=`: as its last character or its last two
(46_codecs.md R241 (c), (d)). -/
def b64Last (c0 c1 c2 c3 : CodeUnit) : Option (List Byte) :=
  if c3 = padChar then if c2 = padChar then b64Group2 c0 c1 else b64Group3 c0 c1 c2
  else b64Group c0 c1 c2 c3

/-- B64Decode, none where it fails (46_codecs.md R241). -/
def b64Decode : List CodeUnit → Option (List Byte)
  | [] => some []
  | [c0, c1, c2, c3] => b64Last c0 c1 c2 c3
  | c0 :: c1 :: c2 :: c3 :: rest =>
    match b64Group c0 c1 c2 c3, b64Decode rest with
    | some g, some d => some (g ++ d)
    | _, _ => none
  | _ => none

/-- B64ENC (46_codecs.md R242). -/
def execB64enc (s : State) : Result :=
  .next (withBytes anyLength s fun bs => respond (.text (b64Encode bs)) s)

/-- B64DEC (46_codecs.md R243). -/
def execB64dec (s : State) : Result :=
  .next (withText s fun us =>
    match b64Decode us with
    | none => raise .invalidCiphertext s
    | some d => respond (.bytes d) s)

end Sys2Proof.Machine
end

