-- ==== Sys2Proof/Machine/WordArith.lean ====
section
/-! DEFINITION. Word arithmetic and the little-endian converter (41_word_arith.md): the rotations, LEWord, Words,
LEBytes and Bytes, and the commands WADD to W2B. -/

namespace Sys2Proof.Machine

/-- Left rotation by `n mod 64` positions (41_word_arith.md R111). -/
def rotl (x : Word) (n : Nat) : Word :=
  if n % 64 = 0 then x else (x <<< (n % 64)) ||| (x >>> (64 - n % 64))

/-- Right rotation by `n mod 64` positions (41_word_arith.md R112). -/
def rotr (x : Word) (n : Nat) : Word :=
  if n % 64 = 0 then x else (x >>> (n % 64)) ||| (x <<< (64 - n % 64))

/-- The rotation amount a word stands for: its bits [5:0], the word mod 64 (00_scope.md R14). -/
def amount (n : Word) : Nat := (n.extractLsb' 0 6).toNat

/-- LEWord: the sum of byte k times 2^(8k), the first byte least significant (41_word_arith.md R117). -/
def leWord : List Byte → Word
  | [] => 0#64
  | b :: bs => b.setWidth 64 + (leWord bs <<< 8)

/-- The number of words a byte string of `n` bytes fills: ceil(n / 8) (41_word_arith.md R117). -/
def wordCount (n : Nat) : Nat := (n + 7) / 8

/-- The first `c` words of a byte string, LEWord(bytes[8m..8m+8)) for m = 0..c-1 (41_word_arith.md R117). -/
def leWords : Nat → List Byte → List Word
  | 0, _ => []
  | c + 1, bs => leWord (bs.take 8) :: leWords c (bs.drop 8)

/-- Words(bytes): zero-fill the final partial word, then split (41_word_arith.md R117). -/
def bytesToWords (bs : List Byte) : List Word :=
  leWords (wordCount bs.length) (bs ++ List.replicate (8 * wordCount bs.length - bs.length) 0#8)

/-- LEBytes: the 8 bytes of a word, least significant first (41_word_arith.md R118). -/
def leBytes (w : Word) : List Byte :=
  [w.extractLsb' 0 8, w.extractLsb' 8 8, w.extractLsb' 16 8, w.extractLsb' 24 8,
   w.extractLsb' 32 8, w.extractLsb' 40 8, w.extractLsb' 48 8, w.extractLsb' 56 8]

/-- Bytes(words): the words' bytes joined (41_word_arith.md R118). -/
def wordsToBytes (ws : List Word) : List Byte := ws.flatMap leBytes

/-- WADD: modular add (41_word_arith.md R114). -/
def execWadd (s : State) : Result :=
  .next (withTwoWords s fun a b => respond (.words [a + b]) s)

/-- WSUB: modular subtract (41_word_arith.md R115). -/
def execWsub (s : State) : Result :=
  .next (withTwoWords s fun a b => respond (.words [a - b]) s)

/-- WXOR: bitwise exclusive-or (41_word_arith.md R116). -/
def execWxor (s : State) : Result :=
  .next (withTwoWords s fun a b => respond (.words [a ^^^ b]) s)

/-- WROTL: left rotate by the second word mod 64 (41_word_arith.md R119). -/
def execWrotl (s : State) : Result :=
  .next (withTwoWords s fun x n => respond (.words [rotl x (amount n)]) s)

/-- WROTR: right rotate by the second word mod 64 (41_word_arith.md R120). -/
def execWrotr (s : State) : Result :=
  .next (withTwoWords s fun x n => respond (.words [rotr x (amount n)]) s)

/-- B2W: bytes to little-endian words (41_word_arith.md R121). -/
def execB2w (s : State) : Result :=
  .next (withBytes anyLength s fun bs => respond (.words (bytesToWords bs)) s)

/-- W2B: words to little-endian bytes (41_word_arith.md R122). -/
def execW2b (s : State) : Result :=
  .next (withWords s fun ws => respond (.bytes (wordsToBytes ws)) s)

end Sys2Proof.Machine
end

