-- ==== Sys2Proof/Machine/BlockCipher.lean ====
section
/-! DEFINITION. The block transform (43_block_cipher.md) and the commands ENCBLK and DECBLK. -/

namespace Sys2Proof.Machine

/-- The two words of a block, A and B (20_memory.md R64, 43_block_cipher.md R171). They live in one call only. -/
structure Block where
  a : Word
  b : Word
  deriving DecidableEq, Repr

/-- A = LEWord(blk[0..8)), B = LEWord(blk[8..16)) (20_memory.md R64). -/
def blockOfBytes (blk : List Byte) : Block :=
  { a := leWord (blk.take 8), b := leWord ((blk.drop 8).take 8) }

/-- LEBytes(A) followed by LEBytes(B) (20_memory.md R64). -/
def bytesOfBlock (x : Block) : List Byte := leBytes x.a ++ leBytes x.b

/-- Encrypt round `k`; B's update uses the A just computed (43_block_cipher.md R170). -/
def encRound (S : List Word) (k : Nat) (x : Block) : Block :=
  let a := rotl (x.a ^^^ x.b) (amount x.b) + subkey S (2 * k)
  { a := a, b := rotl (x.b ^^^ a) (amount a) + subkey S (2 * k + 1) }

/-- Decrypt round `k`; A's update uses the B just computed (43_block_cipher.md R172). -/
def decRound (S : List Word) (k : Nat) (x : Block) : Block :=
  let b := rotr (x.b - subkey S (2 * k + 1)) (amount x.a) ^^^ x.a
  { a := rotr (x.a - subkey S (2 * k)) (amount b) ^^^ b, b := b }

/-- Rounds 1 up to r, in that order (43_block_cipher.md R170). -/
def encRounds (S : List Word) : Nat → Block → Block
  | 0, x => x
  | k + 1, x => encRound S (k + 1) (encRounds S k x)

/-- Rounds r down to 1, in that order (43_block_cipher.md R172). -/
def decRounds (S : List Word) : Nat → Block → Block
  | 0, x => x
  | k + 1, x => decRounds S k (decRound S (k + 1) x)

/-- EncryptBlock on the two words (43_block_cipher.md R170). -/
def encryptWords (S : List Word) (r : Nat) (x : Block) : Block :=
  encRounds S r { a := x.a + subkey S 0, b := x.b + subkey S 1 }

/-- DecryptBlock on the two words (43_block_cipher.md R172). -/
def decryptWords (S : List Word) (r : Nat) (x : Block) : Block :=
  let y := decRounds S r x
  { a := y.a - subkey S 0, b := y.b - subkey S 1 }

/-- EncryptBlock(blk, S, r) (43_block_cipher.md R170). -/
def encryptBlock (S : List Word) (r : Nat) (blk : List Byte) : List Byte :=
  bytesOfBlock (encryptWords S r (blockOfBytes blk))

/-- DecryptBlock(blk, S, r) (43_block_cipher.md R172). -/
def decryptBlock (S : List Word) (r : Nat) (blk : List Byte) : List Byte :=
  bytesOfBlock (decryptWords S r (blockOfBytes blk))

/-- The length rule "at most 16" of ENCBLK and DECBLK (60_exceptions.md R306). -/
def blockLength (n : Nat) : Bool := n ≤ 16

/-- A short block with its missing trailing bytes zero (43_block_cipher.md R175). -/
def zeroFill (blk : List Byte) : List Byte := blk ++ List.replicate (16 - blk.length) 0#8

/-- ENCBLK (43_block_cipher.md R176). -/
def execEncblk (s : State) : Result :=
  .next (withBytes blockLength s fun bs => withKey s <|
    respond (.bytes (encryptBlock s.table s.cfgRounds.toNat (zeroFill bs))) s)

/-- DECBLK (43_block_cipher.md R177). -/
def execDecblk (s : State) : Result :=
  .next (withBytes blockLength s fun bs => withKey s <|
    respond (.bytes (decryptBlock s.table s.cfgRounds.toNat (zeroFill bs))) s)

end Sys2Proof.Machine
end

