-- ==== Sys2Proof/Machine/Cbc.lean ====
section
/-! DEFINITION. The CBC chainer (45_cbc.md) and the commands CBCENC and CBCDEC. -/

namespace Sys2Proof.Machine

/-- The bytewise exclusive-or of two blocks (45_cbc.md R210). -/
def xorBytes (x y : List Byte) : List Byte := List.zipWith (· ^^^ ·) x y

/-- The ciphertext blocks of the first `m` blocks of `p`, chained from `prev` (45_cbc.md R210, R211). -/
def cbcEncBlocks (S : List Word) (r : Nat) : Nat → List Byte → List Byte → List Byte
  | 0, _, _ => []
  | m + 1, p, prev =>
    let c := encryptBlock S r (xorBytes (p.take 16) prev)
    c ++ cbcEncBlocks S r m (p.drop 16) c

/-- The plaintext blocks of the first `m` blocks of `d`, chained on the ciphertext from `prev` (45_cbc.md R212). -/
def cbcDecBlocks (S : List Word) (r : Nat) : Nat → List Byte → List Byte → List Byte
  | 0, _, _ => []
  | m + 1, d, prev =>
    xorBytes (decryptBlock S r (d.take 16)) prev ++ cbcDecBlocks S r m (d.drop 16) (d.take 16)

/-- CBCEncrypt(p, iv, S, r): the IV, then the ciphertext blocks (45_cbc.md R210). -/
def cbcEncrypt (S : List Word) (r : Nat) (iv : Iv) (p : List Byte) : List Byte :=
  iv.toList ++ cbcEncBlocks S r (p.length / 16) p iv.toList

/-- CBCDecrypt(d, S, r), none where it raises `InvalidCiphertext` (45_cbc.md R212). -/
def cbcDecrypt (S : List Word) (r : Nat) (d : List Byte) : Option (List Byte) :=
  if d.length < 32 ∨ (d.length - 16) % 16 ≠ 0 then none
  else some (cbcDecBlocks S r ((d.length - 16) / 16) (d.drop 16) (d.take 16))

/-- The length rule "a multiple of 16" of CBCENC (60_exceptions.md R306). -/
def blockMultiple (n : Nat) : Bool := n % 16 == 0

/-- CBCENC: one draw, taken only where no exception is raised (45_cbc.md R213). -/
def execCbcenc (s : State) : Result :=
  .next (withBytes blockMultiple s fun p => withKey s <|
    respond (.bytes (cbcEncrypt s.table s.cfgRounds.toNat (draw16 s).1 p)) (draw16 s).2)

/-- CBCDEC: the padded plaintext; it does not unpad (45_cbc.md R214). -/
def execCbcdec (s : State) : Result :=
  .next (withBytes anyLength s fun d => withKey s <|
    match cbcDecrypt s.table s.cfgRounds.toNat d with
    | none => raise .invalidCiphertext s
    | some p => respond (.bytes p) s)

end Sys2Proof.Machine
end

