-- ==== Sys2Proof/Machine/TextCodec.lean ====
section
/-! DEFINITION. The UTF-8 codec (46_codecs.md R230 to R236) and the commands UTF8ENC and UTF8DEC. A bit field
joined on the left by its marker bits (`0b1110#4 ++ cp[15:12]`) is the spec's `0xE0 | cp[15:12]`. -/

namespace Sys2Proof.Machine

/-- A high surrogate, 0xD800..0xDBFF (46_codecs.md R230). -/
def isHighSurrogate (x : CodeUnit) : Bool := 0xD800#16 ≤ x && x ≤ 0xDBFF#16

/-- A low surrogate, 0xDC00..0xDFFF (46_codecs.md R230). -/
def isLowSurrogate (x : CodeUnit) : Bool := 0xDC00#16 ≤ x && x ≤ 0xDFFF#16

/-- A continuation byte, `0x80 | six bits` (46_codecs.md R230). -/
def contByte (v : BitVec 6) : Byte := 0b10#2 ++ v

/-- The value of a surrogate pair: 0x10000 + ((hi - 0xD800) << 10) + (lo - 0xDC00) (46_codecs.md R230). -/
def pairValue (hi lo : CodeUnit) : BitVec 21 :=
  0x10000#21 + ((hi - 0xD800#16).setWidth 21 <<< 10) + (lo - 0xDC00#16).setWidth 21

/-- The four bytes of a surrogate pair (46_codecs.md R230). -/
def utf8Pair (hi lo : CodeUnit) : List Byte :=
  let cp := pairValue hi lo
  [0b11110#5 ++ cp.extractLsb' 18 3, contByte (cp.extractLsb' 12 6), contByte (cp.extractLsb' 6 6),
   contByte (cp.extractLsb' 0 6)]

/-- The bytes of a code unit on its own, lone surrogates included (46_codecs.md R230, R231). -/
def utf8Unit (x : CodeUnit) : List Byte :=
  if x ≤ 0x7F#16 then [x.extractLsb' 0 8]
  else if x ≤ 0x7FF#16 then [0b110#3 ++ x.extractLsb' 6 5, contByte (x.extractLsb' 0 6)]
  else [0b1110#4 ++ x.extractLsb' 12 4, contByte (x.extractLsb' 6 6), contByte (x.extractLsb' 0 6)]

/-- UTF8Encode (46_codecs.md R230, R231). -/
def utf8Encode : List CodeUnit → List Byte
  | [] => []
  | [x] => utf8Unit x
  | x :: y :: rest =>
    if isHighSurrogate x && isLowSurrogate y then utf8Pair x y ++ utf8Encode rest
    else utf8Unit x ++ utf8Encode (y :: rest)

/-- The payload bits of a byte taken as a continuation byte, whatever its top two bits (46_codecs.md R234 (c)). -/
def low6 (b : Byte) : BitVec 6 := b.extractLsb' 0 6

/-- What a 4-byte value of at most 0x10FFFF is emitted as (46_codecs.md R233). -/
def unitsOfValue (cp : BitVec 21) : List CodeUnit :=
  if 0x10000#21 ≤ cp then
    let v := cp - 0x10000#21
    [0xD800#16 + (v.extractLsb' 10 10).setWidth 16, 0xDC00#16 + (v.extractLsb' 0 10).setWidth 16]
  else [cp.setWidth 16]

/-- The value of a 2-byte sequence (46_codecs.md R233). -/
def value2 (b b1 : Byte) : CodeUnit := (b.extractLsb' 0 5 ++ low6 b1).setWidth 16

/-- The value of a 3-byte sequence, one code unit whatever it is (46_codecs.md R233, R234 (e)). -/
def value3 (b b1 b2 : Byte) : CodeUnit := b.extractLsb' 0 4 ++ low6 b1 ++ low6 b2

/-- The value of a 4-byte sequence (46_codecs.md R233). -/
def value4 (b b1 b2 b3 : Byte) : BitVec 21 := b.extractLsb' 0 3 ++ low6 b1 ++ low6 b2 ++ low6 b3

/-- The length a lead byte asks for, none for a byte that is no lead (46_codecs.md R233, R234 (a)). -/
def utf8Need (b : Byte) : Option Nat :=
  if b ≤ 0x7F#8 then some 1
  else if 0xC0#8 ≤ b && b ≤ 0xDF#8 then some 2
  else if 0xE0#8 ≤ b && b ≤ 0xEF#8 then some 3
  else if 0xF0#8 ≤ b && b ≤ 0xF7#8 then some 4
  else none

/-- One pass of the decoder's loop at byte `b` with `rest` after it: the units it emits and the number of bytes
of `rest` it moves past (46_codecs.md R233). A skip emits nothing and moves past `b` alone (R234). -/
def utf8Pass (b : Byte) (rest : List Byte) : List CodeUnit × Nat :=
  match utf8Need b, rest with
  | some 1, _ => ([b.setWidth 16], 0)
  | some 2, b1 :: _ => ([value2 b b1], 1)
  | some 3, b1 :: b2 :: _ => ([value3 b b1 b2], 2)
  | some 4, b1 :: b2 :: b3 :: _ =>
    if value4 b b1 b2 b3 ≤ 0x10FFFF#21 then (unitsOfValue (value4 b b1 b2 b3), 3) else ([], 0)
  | _, _ => ([], 0)

/-- The decoder's walk, `n` bytes still to be moved past (46_codecs.md R233). -/
def utf8Walk : Nat → List Byte → List CodeUnit
  | _, [] => []
  | n + 1, _ :: rest => utf8Walk n rest
  | 0, b :: rest => (utf8Pass b rest).1 ++ utf8Walk (utf8Pass b rest).2 rest

/-- UTF8Decode (46_codecs.md R233, R234). -/
def utf8Decode (x : List Byte) : List CodeUnit := utf8Walk 0 x

/-- UTF8ENC (46_codecs.md R232). -/
def execUtf8enc (s : State) : Result :=
  .next (withText s fun us => respond (.bytes (utf8Encode us)) s)

/-- UTF8DEC (46_codecs.md R235). -/
def execUtf8dec (s : State) : Result :=
  .next (withBytes anyLength s fun bs => respond (.text (utf8Decode bs)) s)

end Sys2Proof.Machine
end

