-- ==== Sys2Proof/Machine/KeySchedule.lean ====
section
/-! DEFINITION. The key schedule (42_key_schedule.md R140 to R144) and the commands KEYSET, KEYSETB, CFGRD and
SKREAD. -/

namespace Sys2Proof.Machine

/-- The magic constant P for W = 64 (00_scope.md R12; log 8). -/
def p64 : Word := 0xB7E151628AED2A6B#64

/-- The magic constant Q for W = 64 (00_scope.md R12; log 8). -/
def q64 : Word := 0x9E3779B97F4A7C15#64

/-- `n` words from `w` on, each the one before it plus Q64; from P64 it is the initial table (42_key_schedule.md
R141). -/
def initTable : Nat → Word → List Word
  | 0, _ => []
  | n + 1, w => w :: initTable n (w + q64)

/-- The working values of one key schedule: S, the key words L, the accumulators and the indices. They live in
one call only (10_state.md R31). -/
structure Mix where
  s : List Word
  l : List Word
  a : Word
  b : Word
  i : Nat
  j : Nat
  deriving DecidableEq, Repr

/-- What `KS_STORE` stores: the sum, or its rotation (42_key_schedule.md R142). -/
def stored (store : KsStore) (sum rotated : Word) : Word :=
  match store with
  | .sumOnly => sum
  | .rotated => rotated

/-- The S half of one iteration (42_key_schedule.md R142, first four lines). -/
def mixTable (store : KsStore) (m : Mix) : Mix :=
  let sum := subkey m.s m.i + m.a + m.b
  let a := rotl sum 3
  { m with s := m.s.set m.i (stored store sum a), a := a, i := (m.i + 1) % m.s.length }

/-- The L half of one iteration, skipped for an empty key (42_key_schedule.md R142, R143). `m.a` is the value
just computed, `m.b` the one from before the iteration. -/
def mixKey (store : KsStore) (m : Mix) : Mix :=
  match m.l[m.j]? with
  | none => m
  | some w =>
    let sum := w + m.a + m.b
    let b := rotl sum (amount (m.a + m.b))
    { m with l := m.l.set m.j (stored store sum b), b := b, j := (m.j + 1) % m.l.length }

/-- `n` iterations of the mixing loop (42_key_schedule.md R142). -/
def mixLoop (store : KsStore) : Nat → Mix → Mix
  | 0, m => m
  | n + 1, m => mixLoop store n (mixKey store (mixTable store m))

/-- The working values before the loop, for a key of words `l` (42_key_schedule.md R141). -/
def mixStart (T : Nat) (l : List Word) : Mix :=
  { s := initTable T p64, l := l, a := 0#64, b := 0#64, i := 0, j := 0 }

/-- KeySchedule(K, r): 3 * max(T, c) iterations, then S (42_key_schedule.md R140 to R142). -/
def keySchedule (store : KsStore) (key : List Byte) (r : Nat) : List Word :=
  let l := bytesToWords key
  (mixLoop store (3 * max (tableLength r) l.length) (mixStart (tableLength r) l)).s

/-- A key setup once its payload is taken: `key` is K, and the checks stand in the order of 60_exceptions.md R302
(42_key_schedule.md R145 to R149). -/
def keySetup (f : KFields) (key : List Byte) (s : State) : State :=
  if rEff f < 1 ∨ 255 < rEff f then raise .invalidRounds s
  else if wEff f ≠ 64 then raise .unsupportedWordSize s
  else if key = [] ∧ s.build.emptyKey = .reject then raise .emptyKeyRejected s
  else respond (.bytes []) (installTable (rEff f) (keySchedule s.build.ksStore key (rEff f)) s)

/-- KEYSET: a cipher instance from a text key, its bytes by UTF8Encode (42_key_schedule.md R145). -/
def execKeyset (f : KFields) (s : State) : Result :=
  .next (withText s fun us => keySetup f (utf8Encode us) s)

/-- KEYSETB: a cipher instance from a byte key (42_key_schedule.md R146). -/
def execKeysetb (f : KFields) (s : State) : Result :=
  .next (withBytes anyLength s fun bs => keySetup f bs s)

/-- The length rule "exactly 0" of SKREAD and CFGRD (60_exceptions.md R306). -/
def emptyLength (n : Nat) : Bool := n == 0

/-- CFGRD: KEYVALID, CFG_ROUNDS, CFG_WSIZE and T (42_key_schedule.md R150). -/
def execCfgrd (s : State) : Result :=
  .next (withBytes emptyLength s fun _ =>
    respond (.words [s.keyValid.setWidth 64, s.cfgRounds.setWidth 64, s.cfgWsize.setWidth 64,
      if isKeyed s then BitVec.ofNat 64 (tableLength s.cfgRounds.toNat) else 0#64]) s)

/-- SKREAD: S[0..T-1] (42_key_schedule.md R151). -/
def execSkread (s : State) : Result :=
  .next (withBytes emptyLength s fun _ => withKey s <|
    respond (.words ((List.range (tableLength s.cfgRounds.toNat)).map (subkey s.table))) s)

end Sys2Proof.Machine
end

