-- ==== Sys2Proof/Machine/Padding.lean ====
section
/-! DEFINITION. The padding scheme and the padding check (44_padding.md) and the commands PAD and UNPAD. -/

namespace Sys2Proof.Machine

/-- Pad(d): n copies of the byte n, n = 16 - (len(d) mod 16) (44_padding.md R190). -/
def padBytes (d : List Byte) : List Byte :=
  d ++ List.replicate (16 - d.length % 16) (BitVec.ofNat 8 (16 - d.length % 16))

/-- PadValid(d): the last byte is n, 1 <= n <= 16, n <= len(d), and the last n bytes all equal n (44_padding.md
R192). -/
def padValid (d : List Byte) : Bool :=
  match d.getLast? with
  | none => false
  | some n =>
    1 ≤ n.toNat && n.toNat ≤ 16 && n.toNat ≤ d.length && (d.drop (d.length - n.toNat)).all (· == n)

/-- `d` without its last n bytes, n its last byte (44_padding.md R193). -/
def stripPad (d : List Byte) : List Byte :=
  match d.getLast? with
  | none => d
  | some n => d.take (d.length - n.toNat)

/-- Unpad(d), none where it raises `PaddingValidationFailure` (44_padding.md R193). -/
def unpadBytes (policy : UnpadPolicy) (d : List Byte) : Option (List Byte) :=
  if padValid d then some (stripPad d)
  else
    match policy with
    | .failOpen => some d
    | .failClosed => none

/-- PAD (44_padding.md R191). -/
def execPad (s : State) : Result :=
  .next (withBytes anyLength s fun d => respond (.bytes (padBytes d)) s)

/-- UNPAD (44_padding.md R193). -/
def execUnpad (s : State) : Result :=
  .next (withBytes anyLength s fun d =>
    match unpadBytes s.build.unpad d with
    | none => raise .paddingValidationFailure s
    | some u => respond (.bytes u) s)

end Sys2Proof.Machine
end

