-- ==== Sys2Proof/Machine/Engine.lean ====
section
/-! DEFINITION. The composed operations (47_engine_ops.md): the commands ENCRYPT and DECRYPT. -/

namespace Sys2Proof.Machine

/-- The token of a text for one IV: text, UTF-8 bytes, padded bytes, IV and ciphertext, Base64 (47_engine_ops.md
R270). -/
def encryptText (S : List Word) (r : Nat) (iv : Iv) (us : List CodeUnit) : List CodeUnit :=
  b64Encode (cbcEncrypt S r iv (padBytes (utf8Encode us)))

/-- The text of a token, or the error, the first of R271's order that applies (47_engine_ops.md R271). -/
def decryptText (S : List Word) (r : Nat) (policy : UnpadPolicy) (token : List CodeUnit) :
    Except ErrorKind (List CodeUnit) :=
  match b64Decode token with
  | none => .error .invalidCiphertext
  | some d =>
    match cbcDecrypt S r d with
    | none => .error .invalidCiphertext
    | some p =>
      match unpadBytes policy p with
      | none => .error .paddingValidationFailure
      | some u => .ok (utf8Decode u)

/-- ENCRYPT: one draw, taken only where no exception is raised (47_engine_ops.md R270). -/
def execEncrypt (s : State) : Result :=
  .next (withText s fun us => withKey s <|
    respond (.text (encryptText s.table s.cfgRounds.toNat (draw16 s).1 us)) (draw16 s).2)

/-- DECRYPT (47_engine_ops.md R271). -/
def execDecrypt (s : State) : Result :=
  .next (withText s fun token => withKey s <|
    match decryptText s.table s.cfgRounds.toNat s.build.unpad token with
    | .error e => raise e s
    | .ok us => respond (.text us) s)

end Sys2Proof.Machine
end

