-- ==== Sys2Proof/Machine/Hex.lean ====
section
/-! DEFINITION. The hex display (46_codecs.md R250) and the command HEXOF. -/

namespace Sys2Proof.Machine

/-- A lowercase hexadecimal digit (46_codecs.md R250). -/
def hexDigit (v : BitVec 4) : CodeUnit :=
  if v.toNat < 10 then 0x30#16 + v.setWidth 16 else 0x61#16 + (v - 10#4).setWidth 16

/-- The two digits of a byte, high nibble first (46_codecs.md R250). -/
def hexByte (b : Byte) : List CodeUnit := [hexDigit (b.extractLsb' 4 4), hexDigit (b.extractLsb' 0 4)]

/-- Hex: groups separated by a single space (46_codecs.md R250). -/
def hexText : List Byte → List CodeUnit
  | [] => []
  | [b] => hexByte b
  | b :: rest => hexByte b ++ 0x20#16 :: hexText rest

/-- HEXOF (46_codecs.md R251). -/
def execHexof (s : State) : Result :=
  .next (withBytes anyLength s fun bs => respond (.text (hexText bs)) s)

end Sys2Proof.Machine
end

