-- ==== Sys2Proof/Machine/Dispatch.lean ====
section
/-! DEFINITION. What each command does: one arm per constructor of Instr, each one call of its meaning. -/

namespace Sys2Proof.Machine

def exec (i : Instr) (s : State) : Host.Outcome State Fault Refusal :=
  match i with
  | .keyset k => Sys2Proof.Machine.execKeyset k s
  | .keysetb k => Sys2Proof.Machine.execKeysetb k s
  | .skread => Sys2Proof.Machine.execSkread s
  | .cfgrd => Sys2Proof.Machine.execCfgrd s
  | .encblk => Sys2Proof.Machine.execEncblk s
  | .decblk => Sys2Proof.Machine.execDecblk s
  | .cbcenc => Sys2Proof.Machine.execCbcenc s
  | .cbcdec => Sys2Proof.Machine.execCbcdec s
  | .pad => Sys2Proof.Machine.execPad s
  | .unpad => Sys2Proof.Machine.execUnpad s
  | .utf8enc => Sys2Proof.Machine.execUtf8enc s
  | .utf8dec => Sys2Proof.Machine.execUtf8dec s
  | .b64enc => Sys2Proof.Machine.execB64enc s
  | .b64dec => Sys2Proof.Machine.execB64dec s
  | .hexof => Sys2Proof.Machine.execHexof s
  | .wadd => Sys2Proof.Machine.execWadd s
  | .wsub => Sys2Proof.Machine.execWsub s
  | .wxor => Sys2Proof.Machine.execWxor s
  | .wrotl => Sys2Proof.Machine.execWrotl s
  | .wrotr => Sys2Proof.Machine.execWrotr s
  | .b2w => Sys2Proof.Machine.execB2w s
  | .w2b => Sys2Proof.Machine.execW2b s
  | .encrypt => Sys2Proof.Machine.execEncrypt s
  | .decrypt => Sys2Proof.Machine.execDecrypt s

end Sys2Proof.Machine
end

