-- ==== Sys2Proof/Machine/Step.lean ====
section
/-! DEFINITION. One step: the host's next move (10_state.md R30, R32; 20_memory.md R67, R70). -/

namespace Sys2Proof.Machine

/-- One step. A command is decoded from its word alone and run, or raises `IllegalCommand` (30_encoding.md R87,
60_exceptions.md R305). A reset gives the reset state, also where it interrupts a command, which then has no
response and no effect (70_reset_and_hazards.md R340). With nothing sent, the engine holds its state
(60_exceptions.md R322, 70_reset_and_hazards.md R342). -/
def step (s : State) : Host.Outcome State Fault Refusal :=
  match s.host with
  | [] => .next s
  | .reset :: rest => .next (resetEngine rest s)
  | .interrupted _ _ :: rest => .next (resetEngine rest s)
  | .command w p :: rest =>
    match decode w with
    | .error _ => .next (raise .illegalCommand (acceptCommand p rest s))
    | .ok i => exec i (acceptCommand p rest s)

/-- The payload that travels with a bare command word (log 9): the shortest one its command takes, and none for
a word that is no command. -/
def payloadFor (w : BitVec 32) : Payload :=
  match decode w with
  | .ok i => shortestPayload i
  | .error _ => .bytes []

/-- `s` with the command word of `tableWord nbits w` as the host's next move, so that the next step runs exactly
it (10_state.md R32; logs 1 and 9). -/
def State.withFetchWord (s : State) (nbits w : Nat) : State :=
  { s with host := .command (tableWord nbits w) (payloadFor (tableWord nbits w)) :: s.host }

end Sys2Proof.Machine
end

