-- ==== Sys2Proof/Safety.lean ====
section
/-! DEFINITION. What a safe state is, and the terms the claims are written in: the opcode map's columns, the
error conditions and the arithmetic of the spec, each written from the spec beside the machine and not taken from
it, so that a claim compares the two. -/

namespace Sys2Proof.Claims

open Sys2Proof.Machine

/-! ## Safe states -/

/-- The invariant of the registers (10_state.md R39), less "S is unreadable", which is a claim about commands. -/
abbrev RegistersConsistent (s : State) : Prop :=
  (s.keyValid = 1#1 → 1 ≤ s.cfgRounds.toNat ∧ s.cfgRounds.toNat ≤ 255 ∧ s.cfgWsize = 64#8 ∧
    s.table.length = 2 * (s.cfgRounds.toNat + 1)) ∧
  (s.keyValid = 0#1 → s.cfgRounds = 0#8 ∧ s.cfgWsize = 0#8)

/-- A legal response: a code of 60_exceptions.md R300, with an output payload exactly when it is OK (20_memory.md
R61). -/
abbrev ResponseLegal (r : Response) : Prop :=
  r.st.toNat ≤ 8 ∧ (r.st = 0x00#8 ↔ r.out.isSome = true)

/-- STATUS is the code of the latest response, or 0x00 where there is none yet (10_state.md R33), and every
response is legal. -/
abbrev ResponsesConsistent (s : State) : Prop :=
  (∀ r ∈ s.responses, ResponseLegal r) ∧ s.status = ((s.responses.map Response.st).head?).getD 0x00#8

/-- A safe state: what every run keeps from reset on. -/
abbrev Safe (s : State) : Prop := RegistersConsistent s ∧ ResponsesConsistent s

/-! ## What a command leaves -/

/-- `s` after a command that returned `v` and wrote nothing but STATUS and its response (00_scope.md R17). -/
def answered (s : State) (v : Payload) : State :=
  { s with status := 0x00#8, responses := { st := 0x00#8, out := some v } :: s.responses }

/-- `s` after a command that ended with error code `c` (60_exceptions.md R303). -/
def rejected (s : State) (c : BitVec 8) : State :=
  { s with status := c, responses := { st := c, out := none } :: s.responses }

/-- The answer the next draw gets: whatever the RNG has ready, else the free value (10_state.md R40; log 3). -/
def nextDraw (s : State) : Iv := s.rng.head?.getD (Config.freeDraw s.draws)

/-- `s` after one draw. -/
def afterDraw (s : State) : State := { s with rng := s.rng.tail, draws := s.draws + 1 }

/-- `s` as a command sees it that the host sends with payload `p`, `rest` being what it sends later. -/
def taken (s : State) (p : Payload) (rest : List HostMove) : State := { s with input := p, host := rest }

/-! ## The opcode map (30_encoding.md R85) -/

/-- The assigned opcodes. -/
def assignedOpcodes : List Nat :=
  [0x01, 0x02, 0x03, 0x04, 0x10, 0x11, 0x20, 0x21, 0x30, 0x31, 0x40, 0x41, 0x42, 0x43, 0x44, 0x50, 0x51, 0x52,
   0x53, 0x54, 0x55, 0x56, 0x60, 0x61]

/-- The column "in": the kind. -/
def declaredIn : Instr → Kind
  | .keyset _ | .utf8enc | .b64dec | .encrypt | .decrypt => .text
  | .wadd | .wsub | .wxor | .wrotl | .wrotr | .w2b => .words
  | .keysetb _ | .skread | .cfgrd | .encblk | .decblk | .cbcenc | .cbcdec | .pad | .unpad | .utf8dec | .b64enc
  | .hexof | .b2w => .bytes

/-- The length rules (60_exceptions.md R306). -/
def lengthRule : Instr → Nat → Bool
  | .skread, n | .cfgrd, n => n == 0
  | .encblk, n | .decblk, n => n ≤ 16
  | .cbcenc, n => n % 16 == 0
  | .wadd, n | .wsub, n | .wxor, n | .wrotl, n | .wrotr, n => n == 2
  | .keyset _, _ | .keysetb _, _ | .cbcdec, _ | .pad, _ | .unpad, _ | .utf8enc, _ | .utf8dec, _ | .b64enc, _
  | .b64dec, _ | .hexof, _ | .b2w, _ | .w2b, _ | .encrypt, _ | .decrypt, _ => true

/-- The column "out": the kind. -/
def declaredOut : Instr → Kind
  | .utf8dec | .b64enc | .hexof | .encrypt | .decrypt => .text
  | .skread | .cfgrd | .wadd | .wsub | .wxor | .wrotl | .wrotr | .b2w => .words
  | .keyset _ | .keysetb _ | .encblk | .decblk | .cbcenc | .cbcdec | .pad | .unpad | .utf8enc | .b64dec
  | .w2b => .bytes

/-- The column "out": the length where the map gives one, for a command run in `s`. -/
def declaredOutLength (i : Instr) (s : State) : Option Nat :=
  match i with
  | .keyset _ | .keysetb _ => some 0
  | .skread => some (2 * (s.cfgRounds.toNat + 1))
  | .cfgrd => some 4
  | .encblk | .decblk => some 16
  | .cbcenc => some (s.input.length + 16)
  | .cbcdec => some (s.input.length - 16)
  | .wadd | .wsub | .wxor | .wrotl | .wrotr => some 1
  | .b2w => some ((s.input.length + 7) / 8)
  | .w2b => some (8 * s.input.length)
  | .pad | .unpad | .utf8enc | .utf8dec | .b64enc | .b64dec | .hexof | .encrypt | .decrypt => none

/-- The column "keyed". -/
def keyedCommand : Instr → Bool
  | .skread | .encblk | .decblk | .cbcenc | .cbcdec | .encrypt | .decrypt => true
  | .keyset _ | .keysetb _ | .cfgrd | .pad | .unpad | .utf8enc | .utf8dec | .b64enc | .b64dec | .hexof | .wadd
  | .wsub | .wxor | .wrotl | .wrotr | .b2w | .w2b => false

/-- The column "draw". -/
def drawingCommand : Instr → Bool
  | .cbcenc | .encrypt => true
  | .keyset _ | .keysetb _ | .skread | .cfgrd | .encblk | .decblk | .cbcdec | .pad | .unpad | .utf8enc | .utf8dec
  | .b64enc | .b64dec | .hexof | .wadd | .wsub | .wxor | .wrotl | .wrotr | .b2w | .w2b | .decrypt => false

/-- The two key setups. -/
def keySetupCommand : Instr → Bool
  | .keyset _ | .keysetb _ => true
  | .skread | .cfgrd | .encblk | .decblk | .cbcenc | .cbcdec | .pad | .unpad | .utf8enc | .utf8dec | .b64enc
  | .b64dec | .hexof | .wadd | .wsub | .wxor | .wrotl | .wrotr | .b2w | .w2b | .encrypt | .decrypt => false

/-! ## Errors (60_exceptions.md R300 to R311) -/

/-- The code of an error (60_exceptions.md R300). -/
def statusCode : ErrorKind → BitVec 8
  | .invalidRounds => 0x01#8
  | .unsupportedWordSize => 0x02#8
  | .invalidCiphertext => 0x03#8
  | .paddingValidationFailure => 0x04#8
  | .illegalCommand => 0x05#8
  | .malformedPayload => 0x06#8
  | .notKeyed => 0x07#8
  | .emptyKeyRejected => 0x08#8

/-- The order in which errors are reported (60_exceptions.md R302). -/
def priority : List ErrorKind :=
  [.illegalCommand, .malformedPayload, .notKeyed, .invalidRounds, .unsupportedWordSize, .emptyKeyRejected,
   .invalidCiphertext, .paddingValidationFailure]

/-- An illegal command word, on its value: the five conditions (a) to (e) of 30_encoding.md R86. -/
abbrev IllegalWord (w : BitVec 32) : Prop :=
  let n := w.toNat
  let opc := n % 2 ^ 8
  let formatK := opc = 0x01 ∨ opc = 0x02
  opc ∉ assignedOpcodes ∨
  (¬ formatK ∧ n / 2 ^ 8 ≠ 0) ∨
  (formatK ∧ n / 2 ^ 13 % 2 ^ 3 ≠ 0) ∨
  (formatK ∧ n / 2 ^ 11 % 2 = 1 ∧ n / 2 ^ 8 % 2 ^ 3 ≠ 0) ∨
  (formatK ∧ n / 2 ^ 12 % 2 = 1 ∧ n / 2 ^ 16 ≠ 0)

/-- A payload of `n` elements is within MAX_PAYLOAD (00_scope.md R10). -/
abbrev Admits (s : State) (n : Nat) : Prop := s.build.maxPayload.all (fun m => decide (n ≤ m)) = true

/-- `MalformedPayload` applies to a command whose input is `s.input` (60_exceptions.md R306). -/
abbrev Malformed (i : Instr) (s : State) : Prop :=
  s.input.kind ≠ declaredIn i ∨ lengthRule i s.input.length = false ∨ ¬ Admits s s.input.length

/-- The round count a key setup asks for (30_encoding.md R83). -/
def effectiveRounds (k : KFields) : Nat := if k.dr = true then 12 else k.rounds.toNat

/-- The word size a key setup asks for (30_encoding.md R83). -/
def effectiveWordSize (k : KFields) : Nat := if k.dw = true then 64 else 2 ^ k.wsl.toNat

/-- The lengths CBCDecrypt refuses (45_cbc.md R212). -/
abbrev BadCiphertextLength (n : Nat) : Prop := n < 32 ∨ (n - 16) % 16 ≠ 0

/-- The error conditions of a decoded command that runs in `s` (60_exceptions.md R304, R306 to R311). The command
has decoded, so `IllegalCommand` does not apply to it. -/
def ErrorApplies (i : Instr) (s : State) : ErrorKind → Prop
  | .illegalCommand => False
  | .malformedPayload => Malformed i s
  | .notKeyed => keyedCommand i = true ∧ s.keyValid = 0#1
  | .invalidRounds =>
    ∃ k, (i = .keyset k ∨ i = .keysetb k) ∧ (effectiveRounds k < 1 ∨ 255 < effectiveRounds k)
  | .unsupportedWordSize => ∃ k, (i = .keyset k ∨ i = .keysetb k) ∧ effectiveWordSize k ≠ 64
  | .emptyKeyRejected => keySetupCommand i = true ∧ s.input.length = 0 ∧ s.build.emptyKey = .reject
  | .invalidCiphertext =>
    (i = .b64dec ∧ ∃ us, s.input = .text us ∧ b64Decode us = none) ∨
    (i = .cbcdec ∧ BadCiphertextLength s.input.length) ∨
    (i = .decrypt ∧ ∃ us, s.input = .text us ∧ ∀ d, b64Decode us = some d → BadCiphertextLength d.length)
  | .paddingValidationFailure =>
    s.build.unpad = .failClosed ∧
    ((i = .unpad ∧ ∃ d, s.input = .bytes d ∧ padValid d = false) ∨
     (i = .decrypt ∧ ∃ us d p, s.input = .text us ∧ b64Decode us = some d ∧
       cbcDecrypt s.table s.cfgRounds.toNat d = some p ∧ padValid p = false))

/-- The error conditions of a command word `w` whose command would run in `s`. -/
def WordErrorApplies (w : BitVec 32) (s : State) (e : ErrorKind) : Prop :=
  (e = .illegalCommand ∧ IllegalWord w) ∨ ∃ i, decode w = .ok i ∧ ErrorApplies i s e

/-- `e` applies, and no error before it in the order of 60_exceptions.md R302 does. -/
def FirstError (w : BitVec 32) (s : State) (e : ErrorKind) : Prop :=
  WordErrorApplies w s e ∧
  ∀ before after, priority = before ++ e :: after → ∀ e' ∈ before, ¬ WordErrorApplies w s e'

/-! ## Arithmetic on numbers -/

/-- Left rotation of a 64-bit number by `k < 64` positions (41_word_arith.md R111). -/
def rotlNat (x k : Nat) : Nat := x * 2 ^ k % 2 ^ 64 + x / 2 ^ (64 - k)

/-- Right rotation of a 64-bit number by `k < 64` positions (41_word_arith.md R112). -/
def rotrNat (x k : Nat) : Nat := x / 2 ^ k + x * 2 ^ (64 - k) % 2 ^ 64

/-- The number whose base-256 digits are the bytes, the first least significant (41_word_arith.md R117). -/
def numberOfBytes (bs : List Byte) : Nat := Nat.ofDigits 256 (bs.map BitVec.toNat)

/-- The 8 bytes of a 64-bit number, least significant first (41_word_arith.md R118). -/
def bytesOfNumber (n : Nat) : List Byte := (List.range 8).map fun k => BitVec.ofNat 8 (n / 256 ^ k)

/-- `EncryptBlock` on two numbers, for a table given by its words' numbers (43_block_cipher.md R170). -/
def encryptNumbers (S : Nat → Nat) : Nat → Nat × Nat → Nat × Nat
  | 0, (a, b) => ((a + S 0) % 2 ^ 64, (b + S 1) % 2 ^ 64)
  | k + 1, x =>
    let y := encryptNumbers S k x
    let a := (rotlNat (y.1 ^^^ y.2) (y.2 % 64) + S (2 * (k + 1))) % 2 ^ 64
    (a, (rotlNat (y.2 ^^^ a) (a % 64) + S (2 * (k + 1) + 1)) % 2 ^ 64)

/-- `DecryptBlock` on two numbers (43_block_cipher.md R172). -/
def decryptNumbers (S : Nat → Nat) : Nat → Nat × Nat → Nat × Nat
  | 0, (a, b) => ((a + 2 ^ 64 - S 0) % 2 ^ 64, (b + 2 ^ 64 - S 1) % 2 ^ 64)
  | k + 1, (a, b) =>
    let b' := rotrNat ((b + 2 ^ 64 - S (2 * (k + 1) + 1)) % 2 ^ 64) (a % 64) ^^^ a
    decryptNumbers S k (rotrNat ((a + 2 ^ 64 - S (2 * (k + 1))) % 2 ^ 64) (b' % 64) ^^^ b', b')

/-- The words of a table as numbers; a table of length 2(r+1) is read only inside it. -/
def tableNumbers (S : List Word) (i : Nat) : Nat := ((S[i]?).map BitVec.toNat).getD 0

/-- The working values of the key schedule on numbers (42_key_schedule.md R141). -/
structure Mixing where
  S : Nat → Nat
  L : Nat → Nat
  A : Nat
  B : Nat

/-- The working values after `n` iterations, for T table words and the c words `L` of the key. Iteration number n
works on S[n mod T] and L[n mod c] (42_key_schedule.md R141, R142). -/
def mixing (store : KsStore) (T c : Nat) (L : Nat → Nat) : Nat → Mixing
  | 0 => { S := fun i => (0xB7E151628AED2A6B + i * 0x9E3779B97F4A7C15) % 2 ^ 64, L := L, A := 0, B := 0 }
  | n + 1 =>
    let m := mixing store T c L n
    let s := (m.S (n % T) + m.A + m.B) % 2 ^ 64
    let a := rotlNat s 3
    let S' := Function.update m.S (n % T) (if store = .sumOnly then s else a)
    if c = 0 then { S := S', L := m.L, A := a, B := m.B }
    else
      let l := (m.L (n % c) + a + m.B) % 2 ^ 64
      let b := rotlNat l ((a + m.B) % 64)
      { S := S', L := Function.update m.L (n % c) (if store = .sumOnly then l else b), A := a, B := b }

/-- Key word m on numbers: the number of bytes 8m..8m+7, missing bytes being zero (41_word_arith.md R117). -/
def keyNumbers (key : List Byte) (m : Nat) : Nat := numberOfBytes ((key.drop (8 * m)).take 8)

/-! ## Text, Base64 and padding -/

/-- The bytes of a code unit that starts no surrogate pair (46_codecs.md R230, R231). -/
def unitBytes (x : Nat) : List Nat :=
  if x ≤ 0x7F then [x]
  else if x ≤ 0x7FF then [0xC0 + x / 2 ^ 6, 0x80 + x % 2 ^ 6]
  else [0xE0 + x / 2 ^ 12, 0x80 + x / 2 ^ 6 % 2 ^ 6, 0x80 + x % 2 ^ 6]

/-- The bytes of a surrogate pair (46_codecs.md R230). -/
def pairBytes (hi lo : Nat) : List Nat :=
  let cp := 0x10000 + (hi - 0xD800) * 2 ^ 10 + (lo - 0xDC00)
  [0xF0 + cp / 2 ^ 18, 0x80 + cp / 2 ^ 12 % 2 ^ 6, 0x80 + cp / 2 ^ 6 % 2 ^ 6, 0x80 + cp % 2 ^ 6]

/-- A high surrogate followed by a low one (46_codecs.md R230). -/
abbrev SurrogatePair (x y : CodeUnit) : Prop :=
  0xD800 ≤ x.toNat ∧ x.toNat ≤ 0xDBFF ∧ 0xDC00 ≤ y.toNat ∧ y.toNat ≤ 0xDFFF

/-- The alphabet in the order of its values: `A`..`Z`, `a`..`z`, `0`..`9`, `+`, `/` (46_codecs.md R237). -/
def alphabet : List Nat :=
  List.range' 0x41 26 ++ List.range' 0x61 26 ++ List.range' 0x30 10 ++ [0x2B, 0x2F]

/-- The value of an alphabet character; `=` counts as 0 (46_codecs.md R237). -/
def charValue (c : CodeUnit) : Nat := if c.toNat ∈ alphabet then alphabet.idxOf c.toNat else 0

/-- The texts B64Decode fails on: the conditions (a) to (d) of 46_codecs.md R241, 0x3D being `=`. -/
abbrev BadBase64 (us : List CodeUnit) : Prop :=
  us.length % 4 ≠ 0 ∨
  (∃ c ∈ us, c.toNat ∉ alphabet ∧ c.toNat ≠ 0x3D) ∨
  (∃ k < us.length, us[k]? = some 0x3D#16 ∧ k + 1 ≠ us.length ∧
    ¬ (k + 2 = us.length ∧ us[k + 1]? = some 0x3D#16)) ∨
  (∃ k < us.length, us[k]? = some 0x3D#16 ∧ k % 4 < 2)

/-- The number a group of four characters stands for (46_codecs.md R241). -/
def groupNumber (us : List CodeUnit) (g : Nat) : Nat :=
  let v := fun k => ((us[4 * g + k]?).map charValue).getD 0
  v 0 * 2 ^ 18 + v 1 * 2 ^ 12 + v 2 * 2 ^ 6 + v 3

/-- The number a group of three bytes stands for, missing bytes being zero (46_codecs.md R240). -/
def groupOfBytes (d : List Byte) (g : Nat) : Nat :=
  let v := fun k => ((d[3 * g + k]?).map BitVec.toNat).getD 0
  v 0 * 2 ^ 16 + v 1 * 2 ^ 8 + v 2

/-- The bits of the last character that no byte uses are zero (46_codecs.md R244). -/
abbrev UnusedBitsZero (us : List CodeUnit) : Prop :=
  (∀ init c0 c1, us = init ++ [c0, c1, 0x3D#16, 0x3D#16] → charValue c1 % 2 ^ 4 = 0) ∧
  (∀ init c0 c1 c2, us = init ++ [c0, c1, c2, 0x3D#16] → c2 ≠ 0x3D#16 → charValue c2 % 2 ^ 2 = 0)

/-- `d` is `core` with valid padding after it: n bytes of value n, 1 <= n <= 16 (44_padding.md R192). -/
def PaddedAs (d core : List Byte) : Prop :=
  ∃ n, 1 ≤ n ∧ n ≤ 16 ∧ d = core ++ List.replicate n (BitVec.ofNat 8 n)

/-- Block k of a byte string. -/
def blockAt (d : List Byte) (k : Nat) : List Byte := (d.drop (16 * k)).take 16

/-- The hexadecimal digit characters, `0`..`9` and `a`..`f` (46_codecs.md R250). -/
def hexCharacters : List Nat := List.range' 0x30 10 ++ List.range' 0x61 6

/-- The states in which a command can find the same things: everything a command may read (10_state.md R44,
20_memory.md R72). -/
abbrev SameToCommands (s t : State) : Prop :=
  s.keyValid = t.keyValid ∧ s.cfgRounds = t.cfgRounds ∧ s.cfgWsize = t.cfgWsize ∧ s.table = t.table ∧
  s.build = t.build ∧ s.input = t.input ∧ s.rng = t.rng ∧ s.draws = t.draws

/-! ## Templates of the command rules -/

/-- A command whose payload is malformed reports `MalformedPayload` and does nothing else (60_exceptions.md R303,
R306). -/
def RefusesMalformed (i : Instr) : Prop :=
  ∀ s : State, Malformed i s → exec i s = .next (rejected s 0x06#8)

/-- A keyed command whose payload is well formed reports `NotKeyed` while KEYVALID = 0 (60_exceptions.md R307). -/
def RefusesUnkeyed (i : Instr) : Prop :=
  ∀ s : State, ¬ Malformed i s → s.keyValid = 0#1 → exec i s = .next (rejected s 0x07#8)

/-- The one word that stands for a format-N command (30_encoding.md R82, R85). -/
def HasOnlyWord (i : Instr) (word : BitVec 32) : Prop := ∀ w : BitVec 32, decode w = .ok i ↔ w = word

/-- What a key setup `i` with fields `k` does in `s` once its payload is taken and gives the key bytes `key`
(42_key_schedule.md R145). The cases are in the order of 60_exceptions.md R302 and exclude each other. -/
def KeySetupOutcome (i : Instr) (k : KFields) (s : State) (key : List Byte) : Prop :=
  let r := effectiveRounds k
  let w := effectiveWordSize k
  ((r < 1 ∨ 255 < r) → exec i s = .next (rejected s 0x01#8)) ∧
  (1 ≤ r → r ≤ 255 → w ≠ 64 → exec i s = .next (rejected s 0x02#8)) ∧
  (1 ≤ r → r ≤ 255 → w = 64 → key = [] → s.build.emptyKey = .reject → exec i s = .next (rejected s 0x08#8)) ∧
  (1 ≤ r → r ≤ 255 → w = 64 → (key ≠ [] ∨ s.build.emptyKey = .accept) →
    exec i s = .next (answered
      { s with table := keySchedule s.build.ksStore key r, cfgRounds := BitVec.ofNat 8 r, cfgWsize := 64#8,
               keyValid := 1#1 } (.bytes [])))

end Sys2Proof.Claims
end

