-- ==== Sys2Proof/Certificates/Slice0/Obligations.lean ====
section
/-! DEFINITION. The claims about the engine, one per sentence of the spec or group of sentences. `answered s v` is
`s` with STATUS = 0x00 and the response (OK, v) and nothing else changed; `rejected s c` is `s` with STATUS = c and
a response without output and nothing else changed; so each rule of a command below also states its frame: every
register, the build parameters, the RNG and the host's later moves are as before. -/

open Sys2Proof Sys2Proof.Machine Sys2Proof.Claims

/-! ## Encoding -/

/-- Decoding what the encoder makes of a well-formed command gives the command back, every field at every value
(30_encoding.md R81, R82, R85, R87). -/
def Obligations.DecodeEncodeRoundTrip : Prop :=
  ∀ i : Instr, i.wellFormed = true → decode (encode i) = .ok i

/-- Each legal word has one meaning and each command one word: a word that decodes to a command is the word of
that command, which is well formed (30_encoding.md R81, R82, R87). -/
def Obligations.EncodeDecodeRoundTrip : Prop :=
  ∀ (w : BitVec 32) (i : Instr), decode w = .ok i → i.wellFormed = true ∧ encode i = w

/-- The words that raise `IllegalCommand` are those of 30_encoding.md R86 (a) to (e) and no others, whatever the
payload and the state are (60_exceptions.md R305). -/
def Obligations.IllegalWordsRaiseIllegalCommand : Prop :=
  ∀ (s : State) (w : BitVec 32) (p : Payload) (rest : List HostMove), s.host = .command w p :: rest →
    (IllegalWord w → step s = .next (rejected (taken s p rest) 0x05#8)) ∧
    (¬ IllegalWord w → ∃ i, decode w = .ok i ∧ step s = exec i (taken s p rest))

/-- Words written out from the spec's encodings, one or more per family, decode to the commands they stand for
(30_encoding.md R85, R90, R91). -/
def Obligations.SampleWordsDecode : Prop :=
  decode 0x000C0601#32 = .ok (.keyset { wsl := 6, dw := false, dr := false, rounds := 12 }) ∧
  decode 0x00FF0601#32 = .ok (.keyset { wsl := 6, dw := false, dr := false, rounds := 255 }) ∧
  decode 0x000C0501#32 = .ok (.keyset { wsl := 5, dw := false, dr := false, rounds := 12 }) ∧
  decode 0x00001802#32 = .ok (.keysetb { wsl := 0, dw := true, dr := true, rounds := 0 }) ∧
  decode 0x00000003#32 = .ok .skread ∧ decode 0x00000010#32 = .ok .encblk ∧
  decode 0x00000021#32 = .ok .cbcdec ∧ decode 0x00000031#32 = .ok .unpad ∧
  decode 0x00000043#32 = .ok .b64dec ∧ decode 0x00000053#32 = .ok .wrotl ∧
  decode 0x00000060#32 = .ok .encrypt ∧
  decode 0x000C1801#32 = .error .roundsWithDefault ∧ decode 0x00000160#32 = .error .reservedBitsN ∧
  decode 0x00000000#32 = .error .unassignedOpcode

/-- The words of the pseudo-commands (30_encoding.md R90). -/
def Obligations.PseudoCommandWords : Prop :=
  encode Pseudo.keyset.expand = 0x00001801#32 ∧ encode Pseudo.keysetb.expand = 0x00001802#32 ∧
  ∀ r : BitVec 16,
    encode (Pseudo.keysetRounds r).expand = (r.setWidth 32 <<< 16) ||| 0x00000801#32 ∧
    encode (Pseudo.keysetbRounds r).expand = (r.setWidth 32 <<< 16) ||| 0x00000802#32

/-! ## The step -/

/-- A step on a command whose word decodes to `i` is `exec i` in the state that has taken the command: its payload
is `in`, and the host's later moves stay (20_memory.md R61, R70; 30_encoding.md R87). -/
def Obligations.StepRunsDecodedCommand : Prop :=
  ∀ (s : State) (w : BitVec 32) (p : Payload) (rest : List HostMove) (i : Instr),
    s.host = .command w p :: rest → decode w = .ok i → step s = exec i (taken s p rest)

/-- A reset, between commands or interrupting one, leaves the registers at the reset values, gives no response, and
changes neither the build parameters nor the RNG (70_reset_and_hazards.md R340, R341). That `rng` and `draws` are as
before where the reset interrupts a command is the model's choice, log 7 (DEDUCED): the spec leaves open whether the
RNG had already answered a draw of that command. -/
def Obligations.ResetRestoresRegisters : Prop :=
  ∀ (s : State) (m : HostMove) (rest : List HostMove), s.host = m :: rest →
    (m = .reset ∨ ∃ w p, m = .interrupted w p) →
    ∃ t, step s = .next t ∧ t.status = 0x00#8 ∧ t.keyValid = 0#1 ∧ t.cfgRounds = 0#8 ∧ t.cfgWsize = 0#8 ∧
      t.table.length = 0 ∧ t.build = s.build ∧ t.rng = s.rng ∧ t.draws = s.draws ∧
      ∀ r ∈ t.responses, r ∈ s.responses

/-- Every move the host can make completes, from every state: no step faults or is refused, and the move is used up;
with nothing sent the engine holds its state (70_reset_and_hazards.md R342, R347; 60_exceptions.md R322;
93_implementation_defined.md I17; that nothing sent is a step of its own is log 1). -/
def Obligations.EveryMoveCompletes : Prop :=
  ∀ s : State, ∃ t, step s = .next t ∧ t.host = s.host.tail ∧ (s.host = [] → t = s)

/-- A list of commands is answered one by one: after as many steps as commands, each has its one response and
nothing is left (70_reset_and_hazards.md R348; 20_memory.md R70). -/
def Obligations.RunAnswersEveryCommand : Prop :=
  ∀ (cs : List (BitVec 32 × Payload)) (s : State),
    s.host = cs.map (fun c => HostMove.command c.1 c.2) →
    ∃ t : State, Host.Core.run Sys2Proof.core cs.length s = .next t ∧ t.host = [] ∧
      ∃ rs : List Response, rs.length = cs.length ∧ t.responses = rs ++ s.responses

/-! ## Invariants and whole-machine rules -/

/-- The registers at reset (10_state.md R45). -/
def Obligations.ResetRegisterValues : Prop :=
  State.reset.status = 0x00#8 ∧ State.reset.keyValid = 0#1 ∧ State.reset.cfgRounds = 0#8 ∧
  State.reset.cfgWsize = 0#8 ∧ State.reset.table.length = 0

/-- The reset state is safe: the register invariant holds in it, and STATUS is OK with no response yet
(10_state.md R39, R45). -/
def Obligations.ResetStateIsSafe : Prop := Safe State.reset

/-- Every step keeps a state safe: the register invariant, legal responses, and STATUS equal to the latest response's
code (10_state.md R33, R39; that a reset starts the list of responses anew is log 5). -/
def Obligations.SafeStatesStaySafe : Prop := ∀ s t : State, Safe s → step s = .next t → Safe t

/-- The register invariant holds after reset and every step keeps it; and while KEYVALID = 0 the table is
unreadable: every keyed command gives an error without output and changes nothing but STATUS (10_state.md R39, which
the spec marks derived). -/
def Obligations.RegisterInvariantKept : Prop :=
  RegistersConsistent State.reset ∧
  (∀ s t : State, RegistersConsistent s → step s = .next t → RegistersConsistent t) ∧
  (∀ (s : State) (i : Instr), s.keyValid = 0#1 → keyedCommand i = true →
    ∃ c, c ≠ 0x00#8 ∧ exec i s = .next (rejected s c))

/-- Every command writes STATUS and gives one response with the same code, one of 0x00..0x08, with an output exactly
when it is OK; STATUS is 0x00 at reset (10_state.md R33, 20_memory.md R61). -/
def Obligations.EveryCommandAnswersOnce : Prop :=
  State.reset.status = 0x00#8 ∧
  (∀ (s : State) (w : BitVec 32) (p : Payload) (rest : List HostMove), s.host = .command w p :: rest →
    ∃ t r, step s = .next t ∧ t.responses = r :: s.responses ∧ t.status = r.st ∧ ResponseLegal r)

/-- No step changes the build parameters, resets included (10_state.md R42, 70_reset_and_hazards.md R341). -/
def Obligations.BuildParametersNeverChange : Prop :=
  ∀ s t : State, step s = .next t → t.build = s.build

/-- The table registers change in whole steps: a successful key setup writes all four together, a failed one writes
only STATUS (beside its response), and no other command writes any of them (10_state.md R38). -/
def Obligations.OnlyKeySetupWritesTheTable : Prop :=
  (∀ (k : KFields) (i : Instr) (s t : State), (i = .keyset k ∨ i = .keysetb k) → exec i s = .next t →
    (t.status = 0x00#8 → t.keyValid = 1#1 ∧ t.cfgRounds.toNat = effectiveRounds k ∧ t.cfgWsize = 64#8 ∧
      t.table.length = 2 * (effectiveRounds k + 1)) ∧
    (t.status ≠ 0x00#8 → t = rejected s t.status)) ∧
  (∀ (i : Instr) (s t : State), keySetupCommand i = false → exec i s = .next t →
    t.keyValid = s.keyValid ∧ t.cfgRounds = s.cfgRounds ∧ t.cfgWsize = s.cfgWsize ∧ t.table = s.table)

/-- KEYVALID is set only by a successful key setup and cleared only by reset (10_state.md R34). -/
def Obligations.KeyValidSetByKeySetupClearedByReset : Prop :=
  ∀ s t : State, step s = .next t →
    (s.keyValid = 1#1 → t.keyValid = 0#1 →
      ∃ m rest, s.host = m :: rest ∧ (m = .reset ∨ ∃ w p, m = .interrupted w p)) ∧
    (s.keyValid = 0#1 → t.keyValid = 1#1 →
      ∃ w p rest i, s.host = .command w p :: rest ∧ decode w = .ok i ∧ keySetupCommand i = true ∧
        t.status = 0x00#8)

/-- Errors are precise: the state after an error is the state before the command except STATUS; the response carries
no output and no draw is consumed (60_exceptions.md R303). -/
def Obligations.ErrorsArePrecise : Prop :=
  ∀ (s t : State) (w : BitVec 32) (p : Payload) (rest : List HostMove), s.host = .command w p :: rest →
    step s = .next t → t.status ≠ 0x00#8 → t = rejected (taken s p rest) t.status

/-- A command reports exactly one status: the first error of the spec's order that applies to it, or OK where none
applies (60_exceptions.md R302; the conditions are those of R304 to R311). -/
def Obligations.OneStatusByPriority : Prop :=
  ∀ (s : State) (w : BitVec 32) (p : Payload) (rest : List HostMove), s.host = .command w p :: rest →
    ∃ t, step s = .next t ∧
      ((∃ e, FirstError w (taken s p rest) e ∧ t = rejected (taken s p rest) (statusCode e)) ∨
       ((∀ e, ¬ WordErrorApplies w (taken s p rest) e) ∧ t.status = 0x00#8))

/-- A payload of a kind or length the opcode does not take, or longer than MAX_PAYLOAD, raises `MalformedPayload`
for every command, before anything else (60_exceptions.md R306). -/
def Obligations.MalformedPayloadComesFirst : Prop := ∀ i : Instr, RefusesMalformed i

/-- The side effects of every command, whatever its outcome: STATUS and one response; the table registers for a key
setup; one draw for a successful CBCENC or ENCRYPT; nothing else (10_state.md R40, R44; 20_memory.md R68). -/
def Obligations.SideEffectsOfEveryCommand : Prop :=
  ∀ (i : Instr) (s t : State), exec i s = .next t →
    ∃ r : Response,
      (keySetupCommand i = true →
        t = { s with status := r.st, responses := r :: s.responses, keyValid := t.keyValid,
                     cfgRounds := t.cfgRounds, cfgWsize := t.cfgWsize, table := t.table }) ∧
      (keySetupCommand i = false → (drawingCommand i = false ∨ r.st ≠ 0x00#8) →
        t = { s with status := r.st, responses := r :: s.responses }) ∧
      (drawingCommand i = true → r.st = 0x00#8 →
        t = { afterDraw s with status := r.st, responses := r :: s.responses })

/-- Repeating a command gives the same response and leaves the same state, except for CBCENC and ENCRYPT; repeating
a key setup rewrites an identical table (20_memory.md R68, 42_key_schedule.md R144). -/
def Obligations.RepeatedCommandGivesTheSame : Prop :=
  ∀ (i : Instr) (s t : State), drawingCommand i = false → exec i s = .next t →
    ∃ r, t.responses = r :: s.responses ∧ exec i t = .next { t with responses := r :: t.responses }

/-- One command affects a later one only through S, CFG_ROUNDS, CFG_WSIZE and KEYVALID: in two states that agree on
these, on the build parameters and on the inputs, a command gives the same response and again leaves two such states,
whatever STATUS and the earlier responses are (20_memory.md R72). -/
def Obligations.OnlyTableRegistersCarryOver : Prop :=
  ∀ (i : Instr) (s t s' : State), SameToCommands s t → exec i s = .next s' →
    ∃ t' r, exec i t = .next t' ∧ s'.responses = r :: s.responses ∧ t'.responses = r :: t.responses ∧
      SameToCommands s' t'

/-- The word, codec and padding commands read no register: their response depends on the payload and the build
parameters alone (10_state.md R44). -/
def Obligations.UnkeyedCommandsReadNoRegister : Prop :=
  ∀ (i : Instr) (s t s' : State), keyedCommand i = false → keySetupCommand i = false → i ≠ .cfgrd →
    s.input = t.input → s.build = t.build → exec i s = .next s' →
    ∃ t' r, exec i t = .next t' ∧ s'.responses = r :: s.responses ∧ t'.responses = r :: t.responses

/-- The output of a successful command has the declared kind, and the declared length where the opcode map gives one
(20_memory.md R62, 30_encoding.md R85). -/
def Obligations.OutputIsAsDeclared : Prop :=
  ∀ (i : Instr) (s t : State) (v : Payload), exec i s = .next t →
    t.responses = { st := 0x00#8, out := some v } :: s.responses →
    v.kind = declaredOut i ∧ ∀ n, declaredOutLength i s = some n → v.length = n

/-! ## Word arithmetic and the converter -/

/-- WADD, WSUB and WXOR (41_word_arith.md R114, R115, R116). -/
def Obligations.WordArithmeticRules : Prop :=
  HasOnlyWord .wadd 0x00000050#32 ∧ HasOnlyWord .wsub 0x00000051#32 ∧ HasOnlyWord .wxor 0x00000052#32 ∧
  RefusesMalformed .wadd ∧ RefusesMalformed .wsub ∧ RefusesMalformed .wxor ∧
  ∀ (s : State) (a b : Word), s.input = .words [a, b] → Admits s 2 →
    exec .wadd s = .next (answered s (.words [BitVec.ofNat 64 ((a.toNat + b.toNat) % 2 ^ 64)])) ∧
    exec .wsub s = .next (answered s (.words [BitVec.ofNat 64 ((a.toNat + 2 ^ 64 - b.toNat) % 2 ^ 64)])) ∧
    exec .wxor s = .next (answered s (.words [BitVec.ofNat 64 (a.toNat ^^^ b.toNat)]))

/-- WROTL and WROTR: the amount is the second word mod 64, so a multiple of 64 returns the word unchanged
(41_word_arith.md R111, R112, R119, R120). -/
def Obligations.RotationRules : Prop :=
  HasOnlyWord .wrotl 0x00000053#32 ∧ HasOnlyWord .wrotr 0x00000054#32 ∧
  RefusesMalformed .wrotl ∧ RefusesMalformed .wrotr ∧
  ∀ (s : State) (x n : Word), s.input = .words [x, n] → Admits s 2 →
    exec .wrotl s = .next (answered s (.words [BitVec.ofNat 64 (rotlNat x.toNat (n.toNat % 64))])) ∧
    exec .wrotr s = .next (answered s (.words [BitVec.ofNat 64 (rotrNat x.toNat (n.toNat % 64))]))

/-- The laws the block decrypt relies on (41_word_arith.md R113, which the spec marks derived). -/
def Obligations.WordLawsOfDecrypt : Prop :=
  ∀ (a b : Word) (s : Nat), a + b - b = a ∧ (a ^^^ b) ^^^ b = a ∧ rotr (rotl a s) s = a

/-- B2W: word m is the number of bytes 8m..8m+7, first byte least significant, the last word zero-filled
(41_word_arith.md R117, R121). -/
def Obligations.BytesToWordsRule : Prop :=
  HasOnlyWord .b2w 0x00000055#32 ∧ RefusesMalformed .b2w ∧
  ∀ (s : State) (bs : List Byte), s.input = .bytes bs → Admits s bs.length →
    ∃ ws, exec .b2w s = .next (answered s (.words ws)) ∧ ws.length = (bs.length + 7) / 8 ∧
      ∀ m, m < ws.length → (ws[m]?).map BitVec.toNat = some (numberOfBytes ((bs.drop (8 * m)).take 8))

/-- W2B: each word as its 8 bytes, least significant first (41_word_arith.md R122). -/
def Obligations.WordsToBytesRule : Prop :=
  HasOnlyWord .w2b 0x00000056#32 ∧ RefusesMalformed .w2b ∧
  ∀ (s : State) (ws : List Word), s.input = .words ws → Admits s ws.length →
    exec .w2b s = .next (answered s (.bytes (ws.flatMap fun w => bytesOfNumber w.toNat)))

/-- The converter loses nothing, either way (41_word_arith.md R118). -/
def Obligations.ConverterRoundTrip : Prop :=
  (∀ ws : List Word, bytesToWords (wordsToBytes ws) = ws) ∧
  (∀ bs : List Byte, bs.length % 8 = 0 → wordsToBytes (bytesToWords bs) = bs)

/-! ## Key schedule -/

/-- KEYSET: the text's UTF-8 bytes are the key; the checks and their order; on success the table registers and
nothing else, and an empty output (42_key_schedule.md R145). -/
def Obligations.KeysetRule : Prop :=
  decode 0x000C0601#32 = .ok (.keyset { wsl := 6, dw := false, dr := false, rounds := 12 }) ∧
  decode 0x00001801#32 = .ok (.keyset { wsl := 0, dw := true, dr := true, rounds := 0 }) ∧
  (∀ k : KFields, k.wellFormed = true → ∃ w, w.toNat % 256 = 0x01 ∧ decode w = .ok (.keyset k)) ∧
  (∀ k : KFields, RefusesMalformed (.keyset k)) ∧
  ∀ (k : KFields) (s : State) (us : List CodeUnit), s.input = .text us → Admits s us.length →
    KeySetupOutcome (.keyset k) k s (utf8Encode us)

/-- KEYSETB: the same with the payload's bytes as the key (42_key_schedule.md R146). -/
def Obligations.KeysetbRule : Prop :=
  decode 0x000C0602#32 = .ok (.keysetb { wsl := 6, dw := false, dr := false, rounds := 12 }) ∧
  (∀ k : KFields, k.wellFormed = true → ∃ w, w.toNat % 256 = 0x02 ∧ decode w = .ok (.keysetb k)) ∧
  (∀ k : KFields, RefusesMalformed (.keysetb k)) ∧
  ∀ (k : KFields) (s : State) (bs : List Byte), s.input = .bytes bs → Admits s bs.length →
    KeySetupOutcome (.keysetb k) k s bs

/-- The key schedule is the spec's loop, under either `KS_STORE`: it equals a reference written on numbers, in which
iteration n works on S[n mod T] and L[n mod c] (42_key_schedule.md R141, R142). -/
def Obligations.KeyScheduleIsTheSpecsLoop : Prop :=
  ∀ (store : KsStore) (key : List Byte) (r : Nat),
    let T := 2 * (r + 1)
    let c := (key.length + 7) / 8
    keySchedule store key r =
      (List.range T).map fun i => BitVec.ofNat 64 ((mixing store T c (keyNumbers key) (3 * max T c)).S i)

/-- The table has exactly T = 2(r+1) words for every key and round count, 4..512 of them for r in 1..255
(00_scope.md R9, 42_key_schedule.md R140). -/
def Obligations.TableLengthLaw : Prop :=
  ∀ (store : KsStore) (key : List Byte) (r : Nat),
    (keySchedule store key r).length = 2 * (r + 1) ∧
    (1 ≤ r → r ≤ 255 → 4 ≤ (keySchedule store key r).length ∧ (keySchedule store key r).length ≤ 512)

/-- An empty key: no key words, 3T iterations, and B stays 0 for the whole loop (42_key_schedule.md R143). -/
def Obligations.EmptyKeyNeverUsesB : Prop :=
  bytesToWords [] = [] ∧
  ∀ (store : KsStore) (r : Nat),
    (keySchedule store [] r = (mixLoop store (3 * (2 * (r + 1))) (mixStart (2 * (r + 1)) [])).s) ∧
    ∀ n, (mixLoop store n (mixStart (2 * (r + 1)) [])).b = 0#64

/-- A text key and its UTF-8 bytes give the same outcome: the same status and the same registers
(42_key_schedule.md R144, R146). -/
def Obligations.TextKeyEqualsItsBytes : Prop :=
  ∀ (k : KFields) (s : State) (us : List CodeUnit), s.input = .text us → Admits s us.length →
    Admits s (utf8Encode us).length →
    ∃ t, exec (.keyset k) s = .next t ∧
      exec (.keysetb k) { s with input := .bytes (utf8Encode us) } =
        .next { t with input := .bytes (utf8Encode us) }

/-- CFGRD returns KEYVALID, CFG_ROUNDS, CFG_WSIZE and T, keyed or not (42_key_schedule.md R150). -/
def Obligations.CfgrdRule : Prop :=
  HasOnlyWord .cfgrd 0x00000004#32 ∧ RefusesMalformed .cfgrd ∧
  ∀ s : State, s.input = .bytes [] →
    exec .cfgrd s = .next (answered s (.words [BitVec.ofNat 64 s.keyValid.toNat, BitVec.ofNat 64 s.cfgRounds.toNat,
      BitVec.ofNat 64 s.cfgWsize.toNat,
      if s.keyValid = 1#1 then BitVec.ofNat 64 (2 * (s.cfgRounds.toNat + 1)) else 0#64]))

/-- SKREAD returns the table word by word: in a keyed state that meets the register invariant its output is S
(42_key_schedule.md R151). -/
def Obligations.SkreadRule : Prop :=
  HasOnlyWord .skread 0x00000003#32 ∧ RefusesMalformed .skread ∧ RefusesUnkeyed .skread ∧
  ∀ s : State, s.input = .bytes [] → s.keyValid = 1#1 → RegistersConsistent s →
    exec .skread s = .next (answered s (.words s.table))

/-! ## Block transform -/

/-- ENCBLK: zero-fill a short block, run EncryptBlock, here written on numbers (43_block_cipher.md R170, R176). -/
def Obligations.EncblkRule : Prop :=
  HasOnlyWord .encblk 0x00000010#32 ∧ RefusesMalformed .encblk ∧ RefusesUnkeyed .encblk ∧
  ∀ (s : State) (bs : List Byte), s.input = .bytes bs → bs.length ≤ 16 → Admits s bs.length →
    s.keyValid = 1#1 → RegistersConsistent s →
    let blk := bs ++ List.replicate (16 - bs.length) 0#8
    let x := encryptNumbers (tableNumbers s.table) s.cfgRounds.toNat
      (numberOfBytes (blk.take 8), numberOfBytes (blk.drop 8))
    exec .encblk s = .next (answered s (.bytes (bytesOfNumber x.1 ++ bytesOfNumber x.2)))

/-- DECBLK: zero-fill a short block, run DecryptBlock, here written on numbers (43_block_cipher.md R172, R177). -/
def Obligations.DecblkRule : Prop :=
  HasOnlyWord .decblk 0x00000011#32 ∧ RefusesMalformed .decblk ∧ RefusesUnkeyed .decblk ∧
  ∀ (s : State) (bs : List Byte), s.input = .bytes bs → bs.length ≤ 16 → Admits s bs.length →
    s.keyValid = 1#1 → RegistersConsistent s →
    let blk := bs ++ List.replicate (16 - bs.length) 0#8
    let x := decryptNumbers (tableNumbers s.table) s.cfgRounds.toNat
      (numberOfBytes (blk.take 8), numberOfBytes (blk.drop 8))
    exec .decblk s = .next (answered s (.bytes (bytesOfNumber x.1 ++ bytesOfNumber x.2)))

/-- EncryptBlock and DecryptBlock are inverse to each other, either way round, for every table of length 2(r+1) and
every 16-byte block (43_block_cipher.md R173, which the spec marks derived). -/
def Obligations.BlockTransformsAreInverse : Prop :=
  ∀ (r : Nat) (S : List Word) (x : List Byte), S.length = 2 * (r + 1) → x.length = 16 →
    decryptBlock S r (encryptBlock S r x) = x ∧ encryptBlock S r (decryptBlock S r x) = x

/-! ## Padding -/

/-- PAD appends n bytes of value n, n = 16 - (len mod 16) (44_padding.md R190, R191). -/
def Obligations.PadRule : Prop :=
  HasOnlyWord .pad 0x00000030#32 ∧ RefusesMalformed .pad ∧
  ∀ (s : State) (d : List Byte), s.input = .bytes d → Admits s d.length →
    ∃ n, 1 ≤ n ∧ n ≤ 16 ∧ (d.length + n) % 16 = 0 ∧
      exec .pad s = .next (answered s (.bytes (d ++ List.replicate n (BitVec.ofNat 8 n))))

/-- UNPAD strips valid padding; where there is none, it returns the data unchanged under `FailOpen` and raises
`PaddingValidationFailure` under `FailClosed` (44_padding.md R192, R193). -/
def Obligations.UnpadRule : Prop :=
  HasOnlyWord .unpad 0x00000031#32 ∧ RefusesMalformed .unpad ∧
  ∀ (s : State) (d : List Byte), s.input = .bytes d → Admits s d.length →
    (∀ core, PaddedAs d core → exec .unpad s = .next (answered s (.bytes core))) ∧
    ((∀ core, ¬ PaddedAs d core) →
      (s.build.unpad = .failOpen → exec .unpad s = .next (answered s (.bytes d))) ∧
      (s.build.unpad = .failClosed → exec .unpad s = .next (rejected s 0x04#8)))

/-- Unpad undoes Pad for every byte string, under both policies; Pad need not undo Unpad (44_padding.md
R194, which the spec marks derived). -/
def Obligations.UnpadUndoesPad : Prop :=
  (∀ d : List Byte, padValid (padBytes d) = true ∧ ∀ policy, unpadBytes policy (padBytes d) = some d) ∧
  ∃ d u, unpadBytes .failOpen d = some u ∧ padBytes u ≠ d

/-! ## CBC -/

/-- CBCENC: one draw; the output is the IV and then, block by block, the encryption of plaintext xor previous
ciphertext (45_cbc.md R210, R213; the draw is any value, log 3). -/
def Obligations.CbcencRule : Prop :=
  HasOnlyWord .cbcenc 0x00000020#32 ∧ RefusesMalformed .cbcenc ∧ RefusesUnkeyed .cbcenc ∧
  ∀ (s : State) (p : List Byte), s.input = .bytes p → p.length % 16 = 0 → Admits s p.length →
    s.keyValid = 1#1 →
    ∃ out, exec .cbcenc s = .next (answered (afterDraw s) (.bytes out)) ∧ out.length = p.length + 16 ∧
      blockAt out 0 = (nextDraw s).toList ∧
      ∀ k, k < p.length / 16 →
        blockAt out (k + 1) =
          encryptBlock s.table s.cfgRounds.toNat (List.zipWith (· ^^^ ·) (blockAt p k) (blockAt out k))

/-- CBCDEC: the length check, then block by block the decryption xor the previous ciphertext; no unpadding
(45_cbc.md R212, R214). -/
def Obligations.CbcdecRule : Prop :=
  HasOnlyWord .cbcdec 0x00000021#32 ∧ RefusesMalformed .cbcdec ∧ RefusesUnkeyed .cbcdec ∧
  ∀ (s : State) (d : List Byte), s.input = .bytes d → Admits s d.length → s.keyValid = 1#1 →
    (BadCiphertextLength d.length → exec .cbcdec s = .next (rejected s 0x03#8)) ∧
    (¬ BadCiphertextLength d.length →
      ∃ out, exec .cbcdec s = .next (answered s (.bytes out)) ∧ out.length = d.length - 16 ∧
        ∀ k, k + 1 < d.length / 16 →
          blockAt out k = List.zipWith (· ^^^ ·)
            (decryptBlock s.table s.cfgRounds.toNat (blockAt d (k + 1))) (blockAt d k))

/-- CBCDecrypt undoes CBCEncrypt for every non-empty block multiple, every IV and every table; the output is 16 bytes
longer and starts with the IV (45_cbc.md R215 (a), (b)). -/
def Obligations.CbcDecryptUndoesEncrypt : Prop :=
  ∀ (S : List Word) (r : Nat) (iv : Iv) (p : List Byte), p.length % 16 = 0 → 16 ≤ p.length →
    cbcDecrypt S r (cbcEncrypt S r iv p) = some p ∧ (cbcEncrypt S r iv p).length = p.length + 16 ∧
    (cbcEncrypt S r iv p).take 16 = iv.toList

/-! ## Codecs -/

/-- UTF8ENC, and UTF8Encode by its cases: a surrogate pair is 4 bytes, any other unit 1, 2 or 3, a lone surrogate
included (46_codecs.md R230, R231, R232). -/
def Obligations.Utf8EncodeRule : Prop :=
  HasOnlyWord .utf8enc 0x00000040#32 ∧ RefusesMalformed .utf8enc ∧
  (∀ (s : State) (us : List CodeUnit), s.input = .text us → Admits s us.length →
    exec .utf8enc s = .next (answered s (.bytes (utf8Encode us)))) ∧
  utf8Encode [] = [] ∧
  (∀ (x y : CodeUnit) (rest : List CodeUnit), SurrogatePair x y →
    utf8Encode (x :: y :: rest) = (pairBytes x.toNat y.toNat).map (BitVec.ofNat 8) ++ utf8Encode rest) ∧
  (∀ (x : CodeUnit) (rest : List CodeUnit), (∀ y, rest.head? = some y → ¬ SurrogatePair x y) →
    utf8Encode (x :: rest) = (unitBytes x.toNat).map (BitVec.ofNat 8) ++ utf8Encode rest)

/-- UTF8DEC, and UTF8Decode by its cases: the lead byte's length, the value, and one byte skipped for a byte that is
no lead, a truncated sequence or a value above 0x10FFFF (46_codecs.md R233, R235). -/
def Obligations.Utf8DecodeRule : Prop :=
  HasOnlyWord .utf8dec 0x00000041#32 ∧ RefusesMalformed .utf8dec ∧
  (∀ (s : State) (bs : List Byte), s.input = .bytes bs → Admits s bs.length →
    exec .utf8dec s = .next (answered s (.text (utf8Decode bs)))) ∧
  utf8Decode [] = [] ∧
  (∀ (b : Byte) (rest : List Byte), b.toNat ≤ 0x7F →
    utf8Decode (b :: rest) = BitVec.ofNat 16 b.toNat :: utf8Decode rest) ∧
  (∀ (b : Byte) (rest : List Byte), (0x80 ≤ b.toNat ∧ b.toNat ≤ 0xBF) ∨ 0xF8 ≤ b.toNat →
    utf8Decode (b :: rest) = utf8Decode rest) ∧
  (∀ (b : Byte) (rest : List Byte),
    (0xC0 ≤ b.toNat ∧ b.toNat ≤ 0xDF ∧ rest.length < 1) ∨ (0xE0 ≤ b.toNat ∧ b.toNat ≤ 0xEF ∧ rest.length < 2) ∨
      (0xF0 ≤ b.toNat ∧ b.toNat ≤ 0xF7 ∧ rest.length < 3) →
    utf8Decode (b :: rest) = utf8Decode rest) ∧
  (∀ (b b1 : Byte) (rest : List Byte), 0xC0 ≤ b.toNat → b.toNat ≤ 0xDF →
    utf8Decode (b :: b1 :: rest) =
      BitVec.ofNat 16 (b.toNat % 2 ^ 5 * 2 ^ 6 + b1.toNat % 2 ^ 6) :: utf8Decode rest) ∧
  (∀ (b b1 b2 : Byte) (rest : List Byte), 0xE0 ≤ b.toNat → b.toNat ≤ 0xEF →
    utf8Decode (b :: b1 :: b2 :: rest) =
      BitVec.ofNat 16 (b.toNat % 2 ^ 4 * 2 ^ 12 + b1.toNat % 2 ^ 6 * 2 ^ 6 + b2.toNat % 2 ^ 6) ::
        utf8Decode rest) ∧
  (∀ (b b1 b2 b3 : Byte) (rest : List Byte), 0xF0 ≤ b.toNat → b.toNat ≤ 0xF7 →
    let cp := b.toNat % 2 ^ 3 * 2 ^ 18 + b1.toNat % 2 ^ 6 * 2 ^ 12 + b2.toNat % 2 ^ 6 * 2 ^ 6 + b3.toNat % 2 ^ 6
    (0x10FFFF < cp → utf8Decode (b :: b1 :: b2 :: b3 :: rest) = utf8Decode (b1 :: b2 :: b3 :: rest)) ∧
    (0x10000 ≤ cp → cp ≤ 0x10FFFF → utf8Decode (b :: b1 :: b2 :: b3 :: rest) =
      BitVec.ofNat 16 (0xD800 + (cp - 0x10000) / 2 ^ 10) :: BitVec.ofNat 16 (0xDC00 + (cp - 0x10000) % 2 ^ 10) ::
        utf8Decode rest) ∧
    (cp < 0x10000 → utf8Decode (b :: b1 :: b2 :: b3 :: rest) = BitVec.ofNat 16 cp :: utf8Decode rest))

/-- Decoding what the encoder makes of any code-unit sequence, lone surrogates included, gives it back
(46_codecs.md R236). -/
def Obligations.Utf8RoundTrip : Prop := ∀ us : List CodeUnit, utf8Decode (utf8Encode us) = us

/-- B64ENC: 4 * ceil(len/3) characters, each the alphabet character of its 6 bits, `=` where the last group has no
byte (46_codecs.md R240, R242). -/
def Obligations.Base64EncodeRule : Prop :=
  HasOnlyWord .b64enc 0x00000042#32 ∧ RefusesMalformed .b64enc ∧
  ∀ (s : State) (d : List Byte), s.input = .bytes d → Admits s d.length →
    ∃ us, exec .b64enc s = .next (answered s (.text us)) ∧ us.length = 4 * ((d.length + 2) / 3) ∧
      ∀ j, j < us.length →
        (us[j]?).map BitVec.toNat =
          if d.length < 3 * (j / 4) + j % 4 then some 0x3D
          else alphabet[groupOfBytes d (j / 4) / 2 ^ (18 - 6 * (j % 4)) % 2 ^ 6]?

/-- B64DEC fails exactly on the texts of 46_codecs.md R241 (a) to (d), with `InvalidCiphertext`; otherwise byte k is
its 8 bits of the characters' values, unused bits ignored (R241, R243). -/
def Obligations.Base64DecodeRule : Prop :=
  HasOnlyWord .b64dec 0x00000043#32 ∧ RefusesMalformed .b64dec ∧
  ∀ (s : State) (us : List CodeUnit), s.input = .text us → Admits s us.length →
    (BadBase64 us → exec .b64dec s = .next (rejected s 0x03#8)) ∧
    (¬ BadBase64 us →
      ∃ d, exec .b64dec s = .next (answered s (.bytes d)) ∧
        d.length + us.count 0x3D#16 = 3 * (us.length / 4) ∧
        ∀ k, k < d.length →
          (d[k]?).map BitVec.toNat = some (groupNumber us (k / 3) / 2 ^ (16 - 8 * (k % 3)) % 2 ^ 8))

/-- Base64 round trip: decoding an encoding gives the bytes back, and encoding a decoding gives the text back where
its unused bits are zero (46_codecs.md R244, which the spec marks derived). -/
def Obligations.Base64RoundTrip : Prop :=
  (∀ d : List Byte, b64Decode (b64Encode d) = some d) ∧
  (∀ (us : List CodeUnit) (d : List Byte), b64Decode us = some d → UnusedBitsZero us → b64Encode d = us)

/-- HEXOF: two lowercase digits per byte, high nibble first, single spaces between (46_codecs.md R250, R251). -/
def Obligations.HexofRule : Prop :=
  HasOnlyWord .hexof 0x00000044#32 ∧ RefusesMalformed .hexof ∧
  ∀ (s : State) (d : List Byte), s.input = .bytes d → Admits s d.length →
    ∃ us, exec .hexof s = .next (answered s (.text us)) ∧ us.length = 3 * d.length - 1 ∧
      ∀ (k : Nat) (b : Byte), d[k]? = some b →
        (us[3 * k]?).map BitVec.toNat = hexCharacters[b.toNat / 16]? ∧
        (us[3 * k + 1]?).map BitVec.toNat = hexCharacters[b.toNat % 16]? ∧
        (k + 1 < d.length → us[3 * k + 2]? = some 0x20#16)

/-! ## ENCRYPT and DECRYPT -/

/-- ENCRYPT is UTF-8, Pad, CBC with one draw, Base64 (47_engine_ops.md R270; the draw is any value, log 3). -/
def Obligations.EncryptRule : Prop :=
  HasOnlyWord .encrypt 0x00000060#32 ∧ RefusesMalformed .encrypt ∧ RefusesUnkeyed .encrypt ∧
  ∀ (s : State) (us : List CodeUnit), s.input = .text us → Admits s us.length → s.keyValid = 1#1 →
    exec .encrypt s = .next (answered (afterDraw s)
      (.text (b64Encode (cbcEncrypt s.table s.cfgRounds.toNat (nextDraw s) (padBytes (utf8Encode us))))))

/-- DECRYPT reverses the chain, each failure with its status (47_engine_ops.md R271). -/
def Obligations.DecryptRule : Prop :=
  HasOnlyWord .decrypt 0x00000061#32 ∧ RefusesMalformed .decrypt ∧ RefusesUnkeyed .decrypt ∧
  ∀ (s : State) (us : List CodeUnit), s.input = .text us → Admits s us.length → s.keyValid = 1#1 →
    (b64Decode us = none → exec .decrypt s = .next (rejected s 0x03#8)) ∧
    ∀ d, b64Decode us = some d →
      (BadCiphertextLength d.length → exec .decrypt s = .next (rejected s 0x03#8)) ∧
      ∀ p, cbcDecrypt s.table s.cfgRounds.toNat d = some p →
        (padValid p = true →
          exec .decrypt s = .next (answered s (.text (utf8Decode (stripPad p))))) ∧
        (padValid p = false → s.build.unpad = .failOpen →
          exec .decrypt s = .next (answered s (.text (utf8Decode p)))) ∧
        (padValid p = false → s.build.unpad = .failClosed →
          exec .decrypt s = .next (rejected s 0x04#8))

/-- The token of any text decodes to 16 * (1 + ceil((len + 1) / 16)) bytes, len the length of its UTF-8 form, which
is 16 * (2 + floor(len / 16)), and has 4 * ceil(that / 3) characters (47_engine_ops.md R272, which the spec marks
derived). -/
def Obligations.TokenLengthLaw : Prop :=
  ∀ (S : List Word) (r : Nat) (iv : Iv) (us : List CodeUnit),
    let len := (utf8Encode us).length
    ∃ d, b64Decode (encryptText S r iv us) = some d ∧ d.length = 16 * (1 + (len + 1 + 15) / 16) ∧
      d.length = 16 * (2 + len / 16) ∧ (encryptText S r iv us).length = 4 * ((d.length + 2) / 3)

/-- Round trip: what ENCRYPT answers, DECRYPT turns back into the text, in any later state with the same table, under
either policy, either store and every draw; only a MAX_PAYLOAD below the token's length stops it (47_engine_ops.md
R273, 60_exceptions.md R306). -/
def Obligations.EncryptDecryptRoundTrip : Prop :=
  ∀ (s : State) (us : List CodeUnit), s.input = .text us → Admits s us.length → s.keyValid = 1#1 →
    ∃ s' token, exec .encrypt s = .next s' ∧
      s'.responses = { st := 0x00#8, out := some (.text token) } :: s.responses ∧
      ∀ t : State, t.input = .text token → t.keyValid = 1#1 → t.cfgRounds = s.cfgRounds → t.table = s.table →
        exec .decrypt t = .next (if Admits t token.length then answered t (.text us) else rejected t 0x06#8)

/-- For one text and one key, two tokens differ exactly when the two draws differ, and both decrypt to the text
under either policy (47_engine_ops.md R274, which the spec marks derived). -/
def Obligations.TokensDifferExactlyWhenDrawsDiffer : Prop :=
  ∀ (S : List Word) (r : Nat) (iv iv' : Iv) (us : List CodeUnit),
    (encryptText S r iv us ≠ encryptText S r iv' us ↔ iv ≠ iv') ∧
    ∀ policy, decryptText S r policy (encryptText S r iv us) = .ok us ∧
      decryptText S r policy (encryptText S r iv' us) = .ok us
end

