-- ==== Sys2Proof/Laws/Data.lean ====
section
/-! SUPPORT. The small lemmas of the data functions: the length of what each makes, and its equation on a list in
constructor form, so that later proofs cite these and do not unfold. -/

namespace Sys2Proof.Machine

/-! ## Numbers of joined bit fields -/

theorem toNat_append {n m : Nat} (x : BitVec n) (y : BitVec m) :
    (x ++ y).toNat = x.toNat * 2 ^ m + y.toNat := by
  rw [BitVec.toNat_append, Nat.shiftLeft_eq, Nat.mul_comm, ← Nat.two_pow_add_eq_or_of_lt y.isLt (x.toNat)]

/-- The rotation amount of a word is the word mod 64 (00_scope.md R14). -/
theorem amount_eq (n : Word) : amount n = n.toNat % 64 := by simp [amount]

/-! ## The converter -/

@[simp] theorem length_leBytes (w : Word) : (leBytes w).length = 8 := rfl

@[simp] theorem wordsToBytes_nil : wordsToBytes [] = [] := rfl

@[simp] theorem wordsToBytes_cons (w : Word) (ws : List Word) :
    wordsToBytes (w :: ws) = leBytes w ++ wordsToBytes ws := rfl

@[simp] theorem length_wordsToBytes (ws : List Word) : (wordsToBytes ws).length = 8 * ws.length := by
  induction ws with
  | nil => rfl
  | cons w ws ih => simp [ih]; omega

@[simp] theorem length_leWords (c : Nat) (bs : List Byte) : (leWords c bs).length = c := by
  induction c generalizing bs with
  | zero => rfl
  | succ c ih => simp [leWords, ih]

@[simp] theorem length_bytesToWords (bs : List Byte) : (bytesToWords bs).length = (bs.length + 7) / 8 :=
  length_leWords _ _

/-! ## Key schedule -/

@[simp] theorem length_initTable (n : Nat) (w : Word) : (initTable n w).length = n := by
  induction n generalizing w with
  | zero => rfl
  | succ n ih => simp [initTable, ih]

@[simp] theorem mixTable_l (store : KsStore) (m : Mix) : (mixTable store m).l = m.l := rfl
@[simp] theorem mixTable_b (store : KsStore) (m : Mix) : (mixTable store m).b = m.b := rfl
@[simp] theorem mixTable_j (store : KsStore) (m : Mix) : (mixTable store m).j = m.j := rfl

@[simp] theorem length_mixTable_s (store : KsStore) (m : Mix) : (mixTable store m).s.length = m.s.length := by
  simp [mixTable]

/-- Everything the L half can do: nothing where there is no key word, else the spec's three updates. -/
theorem mixKey_cases (store : KsStore) (m : Mix) :
    (m.l.length ≤ m.j ∧ mixKey store m = m) ∨
    ∃ w, m.l[m.j]? = some w ∧
      mixKey store m =
        { m with
          l := m.l.set m.j (stored store (w + m.a + m.b) (rotl (w + m.a + m.b) (amount (m.a + m.b)))),
          b := rotl (w + m.a + m.b) (amount (m.a + m.b)), j := (m.j + 1) % m.l.length } := by
  cases h : m.l[m.j]? with
  | none => exact .inl ⟨by simpa using h, by simp [mixKey, h]⟩
  | some w => exact .inr ⟨w, rfl, by simp [mixKey, h]⟩

@[simp] theorem mixKey_s (store : KsStore) (m : Mix) : (mixKey store m).s = m.s := by
  obtain ⟨-, h⟩ | ⟨w, -, h⟩ := mixKey_cases store m <;> rw [h]

@[simp] theorem mixKey_a (store : KsStore) (m : Mix) : (mixKey store m).a = m.a := by
  obtain ⟨-, h⟩ | ⟨w, -, h⟩ := mixKey_cases store m <;> rw [h]

@[simp] theorem mixKey_i (store : KsStore) (m : Mix) : (mixKey store m).i = m.i := by
  obtain ⟨-, h⟩ | ⟨w, -, h⟩ := mixKey_cases store m <;> rw [h]

@[simp] theorem length_mixKey_l (store : KsStore) (m : Mix) : (mixKey store m).l.length = m.l.length := by
  obtain ⟨-, h⟩ | ⟨w, -, h⟩ := mixKey_cases store m <;> simp [h]

/-- The loop peels its last iteration as well as its first. -/
theorem mixLoop_succ (store : KsStore) (n : Nat) (m : Mix) :
    mixLoop store (n + 1) m = mixKey store (mixTable store (mixLoop store n m)) := by
  induction n generalizing m with
  | zero => rfl
  | succ n ih => exact ih _

/-! ## Blocks -/

@[simp] theorem length_bytesOfBlock (x : Block) : (bytesOfBlock x).length = 16 := rfl

@[simp] theorem length_encryptBlock (S : List Word) (r : Nat) (blk : List Byte) :
    (encryptBlock S r blk).length = 16 := rfl

@[simp] theorem length_decryptBlock (S : List Word) (r : Nat) (blk : List Byte) :
    (decryptBlock S r blk).length = 16 := rfl

@[simp] theorem length_xorBytes (x y : List Byte) : (xorBytes x y).length = min x.length y.length := by
  simp [xorBytes]

@[simp] theorem length_cbcEncBlocks (S : List Word) (r m : Nat) (p prev : List Byte) :
    (cbcEncBlocks S r m p prev).length = 16 * m := by
  induction m generalizing p prev with
  | zero => rfl
  | succ m ih => simp [cbcEncBlocks, ih]; omega

@[simp] theorem length_padBytes (d : List Byte) : (padBytes d).length = 16 * (d.length / 16 + 1) := by
  simp [padBytes]; omega

/-! ## Codecs -/

@[simp] theorem utf8Encode_nil : utf8Encode [] = [] := rfl

@[simp] theorem utf8Decode_nil : utf8Decode [] = [] := rfl

theorem utf8Decode_cons (b : Byte) (rest : List Byte) :
    utf8Decode (b :: rest) = (utf8Pass b rest).1 ++ utf8Walk (utf8Pass b rest).2 rest := by
  simp [utf8Decode, utf8Walk]

/-- Bytes still to be moved past are dropped, and the walk goes on as a decoder of the rest. -/
theorem utf8Walk_drop (n : Nat) (bs : List Byte) : utf8Walk n bs = utf8Decode (bs.drop n) := by
  induction n generalizing bs with
  | zero => rfl
  | succ n ih =>
    cases bs with
    | nil => simp [utf8Walk]
    | cons b rest => simpa [utf8Walk] using ih rest

theorem b64Encode_three (g0 g1 g2 : Byte) (rest : List Byte) :
    b64Encode (g0 :: g1 :: g2 :: rest) = b64Encode [g0, g1, g2] ++ b64Encode rest := by
  simp [b64Encode]

theorem hexText_cons (b c : Byte) (rest : List Byte) :
    hexText (b :: c :: rest) = hexByte b ++ 0x20#16 :: hexText (c :: rest) := rfl

end Sys2Proof.Machine
end

