-- ==== Sys2Proof/Laws/State.lean ====
section
/-! SUPPORT. One lemma per field per update of the state, each true by `rfl`. The last four updates are the terms
of the claims (Safety.lean). -/

namespace Sys2Proof.Laws

open Sys2Proof.Machine Sys2Proof.Claims

/-! `respond` -/

@[simp] theorem respond_status (v : Payload) (s : State) : (respond v s).status = okCode := rfl
@[simp] theorem respond_keyValid (v : Payload) (s : State) : (respond v s).keyValid = s.keyValid := rfl
@[simp] theorem respond_cfgRounds (v : Payload) (s : State) : (respond v s).cfgRounds = s.cfgRounds := rfl
@[simp] theorem respond_cfgWsize (v : Payload) (s : State) : (respond v s).cfgWsize = s.cfgWsize := rfl
@[simp] theorem respond_table (v : Payload) (s : State) : (respond v s).table = s.table := rfl
@[simp] theorem respond_build (v : Payload) (s : State) : (respond v s).build = s.build := rfl
@[simp] theorem respond_input (v : Payload) (s : State) : (respond v s).input = s.input := rfl
@[simp] theorem respond_responses (v : Payload) (s : State) : (respond v s).responses = { st := okCode, out := some v } :: s.responses := rfl
@[simp] theorem respond_host (v : Payload) (s : State) : (respond v s).host = s.host := rfl
@[simp] theorem respond_rng (v : Payload) (s : State) : (respond v s).rng = s.rng := rfl
@[simp] theorem respond_draws (v : Payload) (s : State) : (respond v s).draws = s.draws := rfl

/-! `raise` -/

@[simp] theorem raise_status (e : ErrorKind) (s : State) : (raise e s).status = errorCode e := rfl
@[simp] theorem raise_keyValid (e : ErrorKind) (s : State) : (raise e s).keyValid = s.keyValid := rfl
@[simp] theorem raise_cfgRounds (e : ErrorKind) (s : State) : (raise e s).cfgRounds = s.cfgRounds := rfl
@[simp] theorem raise_cfgWsize (e : ErrorKind) (s : State) : (raise e s).cfgWsize = s.cfgWsize := rfl
@[simp] theorem raise_table (e : ErrorKind) (s : State) : (raise e s).table = s.table := rfl
@[simp] theorem raise_build (e : ErrorKind) (s : State) : (raise e s).build = s.build := rfl
@[simp] theorem raise_input (e : ErrorKind) (s : State) : (raise e s).input = s.input := rfl
@[simp] theorem raise_responses (e : ErrorKind) (s : State) : (raise e s).responses = { st := errorCode e, out := none } :: s.responses := rfl
@[simp] theorem raise_host (e : ErrorKind) (s : State) : (raise e s).host = s.host := rfl
@[simp] theorem raise_rng (e : ErrorKind) (s : State) : (raise e s).rng = s.rng := rfl
@[simp] theorem raise_draws (e : ErrorKind) (s : State) : (raise e s).draws = s.draws := rfl

/-! `installTable` -/

@[simp] theorem installTable_status (r : Nat) (S : List Word) (s : State) : (installTable r S s).status = s.status := rfl
@[simp] theorem installTable_keyValid (r : Nat) (S : List Word) (s : State) : (installTable r S s).keyValid = 1#1 := rfl
@[simp] theorem installTable_cfgRounds (r : Nat) (S : List Word) (s : State) : (installTable r S s).cfgRounds = BitVec.ofNat 8 r := rfl
@[simp] theorem installTable_cfgWsize (r : Nat) (S : List Word) (s : State) : (installTable r S s).cfgWsize = 64#8 := rfl
@[simp] theorem installTable_table (r : Nat) (S : List Word) (s : State) : (installTable r S s).table = S := rfl
@[simp] theorem installTable_build (r : Nat) (S : List Word) (s : State) : (installTable r S s).build = s.build := rfl
@[simp] theorem installTable_input (r : Nat) (S : List Word) (s : State) : (installTable r S s).input = s.input := rfl
@[simp] theorem installTable_responses (r : Nat) (S : List Word) (s : State) : (installTable r S s).responses = s.responses := rfl
@[simp] theorem installTable_host (r : Nat) (S : List Word) (s : State) : (installTable r S s).host = s.host := rfl
@[simp] theorem installTable_rng (r : Nat) (S : List Word) (s : State) : (installTable r S s).rng = s.rng := rfl
@[simp] theorem installTable_draws (r : Nat) (S : List Word) (s : State) : (installTable r S s).draws = s.draws := rfl

/-! `acceptCommand` -/

@[simp] theorem acceptCommand_status (p : Payload) (rest : List HostMove) (s : State) : (acceptCommand p rest s).status = s.status := rfl
@[simp] theorem acceptCommand_keyValid (p : Payload) (rest : List HostMove) (s : State) : (acceptCommand p rest s).keyValid = s.keyValid := rfl
@[simp] theorem acceptCommand_cfgRounds (p : Payload) (rest : List HostMove) (s : State) : (acceptCommand p rest s).cfgRounds = s.cfgRounds := rfl
@[simp] theorem acceptCommand_cfgWsize (p : Payload) (rest : List HostMove) (s : State) : (acceptCommand p rest s).cfgWsize = s.cfgWsize := rfl
@[simp] theorem acceptCommand_table (p : Payload) (rest : List HostMove) (s : State) : (acceptCommand p rest s).table = s.table := rfl
@[simp] theorem acceptCommand_build (p : Payload) (rest : List HostMove) (s : State) : (acceptCommand p rest s).build = s.build := rfl
@[simp] theorem acceptCommand_input (p : Payload) (rest : List HostMove) (s : State) : (acceptCommand p rest s).input = p := rfl
@[simp] theorem acceptCommand_responses (p : Payload) (rest : List HostMove) (s : State) : (acceptCommand p rest s).responses = s.responses := rfl
@[simp] theorem acceptCommand_host (p : Payload) (rest : List HostMove) (s : State) : (acceptCommand p rest s).host = rest := rfl
@[simp] theorem acceptCommand_rng (p : Payload) (rest : List HostMove) (s : State) : (acceptCommand p rest s).rng = s.rng := rfl
@[simp] theorem acceptCommand_draws (p : Payload) (rest : List HostMove) (s : State) : (acceptCommand p rest s).draws = s.draws := rfl

/-! `resetEngine` -/

@[simp] theorem resetEngine_status (rest : List HostMove) (s : State) : (resetEngine rest s).status = 0x00#8 := rfl
@[simp] theorem resetEngine_keyValid (rest : List HostMove) (s : State) : (resetEngine rest s).keyValid = 0#1 := rfl
@[simp] theorem resetEngine_cfgRounds (rest : List HostMove) (s : State) : (resetEngine rest s).cfgRounds = 0#8 := rfl
@[simp] theorem resetEngine_cfgWsize (rest : List HostMove) (s : State) : (resetEngine rest s).cfgWsize = 0#8 := rfl
@[simp] theorem resetEngine_table (rest : List HostMove) (s : State) : (resetEngine rest s).table = [] := rfl
@[simp] theorem resetEngine_build (rest : List HostMove) (s : State) : (resetEngine rest s).build = s.build := rfl
@[simp] theorem resetEngine_input (rest : List HostMove) (s : State) : (resetEngine rest s).input = .bytes [] := rfl
@[simp] theorem resetEngine_responses (rest : List HostMove) (s : State) : (resetEngine rest s).responses = [] := rfl
@[simp] theorem resetEngine_host (rest : List HostMove) (s : State) : (resetEngine rest s).host = rest := rfl
@[simp] theorem resetEngine_rng (rest : List HostMove) (s : State) : (resetEngine rest s).rng = s.rng := rfl
@[simp] theorem resetEngine_draws (rest : List HostMove) (s : State) : (resetEngine rest s).draws = s.draws := rfl

/-! `afterDraw` -/

@[simp] theorem afterDraw_status (s : State) : (afterDraw s).status = s.status := rfl
@[simp] theorem afterDraw_keyValid (s : State) : (afterDraw s).keyValid = s.keyValid := rfl
@[simp] theorem afterDraw_cfgRounds (s : State) : (afterDraw s).cfgRounds = s.cfgRounds := rfl
@[simp] theorem afterDraw_cfgWsize (s : State) : (afterDraw s).cfgWsize = s.cfgWsize := rfl
@[simp] theorem afterDraw_table (s : State) : (afterDraw s).table = s.table := rfl
@[simp] theorem afterDraw_build (s : State) : (afterDraw s).build = s.build := rfl
@[simp] theorem afterDraw_input (s : State) : (afterDraw s).input = s.input := rfl
@[simp] theorem afterDraw_responses (s : State) : (afterDraw s).responses = s.responses := rfl
@[simp] theorem afterDraw_host (s : State) : (afterDraw s).host = s.host := rfl
@[simp] theorem afterDraw_rng (s : State) : (afterDraw s).rng = s.rng.tail := rfl
@[simp] theorem afterDraw_draws (s : State) : (afterDraw s).draws = s.draws + 1 := rfl

/-! `answered` -/

@[simp] theorem answered_status (s : State) (v : Payload) : (answered s v).status = 0x00#8 := rfl
@[simp] theorem answered_keyValid (s : State) (v : Payload) : (answered s v).keyValid = s.keyValid := rfl
@[simp] theorem answered_cfgRounds (s : State) (v : Payload) : (answered s v).cfgRounds = s.cfgRounds := rfl
@[simp] theorem answered_cfgWsize (s : State) (v : Payload) : (answered s v).cfgWsize = s.cfgWsize := rfl
@[simp] theorem answered_table (s : State) (v : Payload) : (answered s v).table = s.table := rfl
@[simp] theorem answered_build (s : State) (v : Payload) : (answered s v).build = s.build := rfl
@[simp] theorem answered_input (s : State) (v : Payload) : (answered s v).input = s.input := rfl
@[simp] theorem answered_responses (s : State) (v : Payload) : (answered s v).responses = { st := 0x00#8, out := some v } :: s.responses := rfl
@[simp] theorem answered_host (s : State) (v : Payload) : (answered s v).host = s.host := rfl
@[simp] theorem answered_rng (s : State) (v : Payload) : (answered s v).rng = s.rng := rfl
@[simp] theorem answered_draws (s : State) (v : Payload) : (answered s v).draws = s.draws := rfl

/-! `rejected` -/

@[simp] theorem rejected_status (s : State) (c : BitVec 8) : (rejected s c).status = c := rfl
@[simp] theorem rejected_keyValid (s : State) (c : BitVec 8) : (rejected s c).keyValid = s.keyValid := rfl
@[simp] theorem rejected_cfgRounds (s : State) (c : BitVec 8) : (rejected s c).cfgRounds = s.cfgRounds := rfl
@[simp] theorem rejected_cfgWsize (s : State) (c : BitVec 8) : (rejected s c).cfgWsize = s.cfgWsize := rfl
@[simp] theorem rejected_table (s : State) (c : BitVec 8) : (rejected s c).table = s.table := rfl
@[simp] theorem rejected_build (s : State) (c : BitVec 8) : (rejected s c).build = s.build := rfl
@[simp] theorem rejected_input (s : State) (c : BitVec 8) : (rejected s c).input = s.input := rfl
@[simp] theorem rejected_responses (s : State) (c : BitVec 8) : (rejected s c).responses = { st := c, out := none } :: s.responses := rfl
@[simp] theorem rejected_host (s : State) (c : BitVec 8) : (rejected s c).host = s.host := rfl
@[simp] theorem rejected_rng (s : State) (c : BitVec 8) : (rejected s c).rng = s.rng := rfl
@[simp] theorem rejected_draws (s : State) (c : BitVec 8) : (rejected s c).draws = s.draws := rfl

/-! `taken` -/

@[simp] theorem taken_status (s : State) (p : Payload) (rest : List HostMove) : (taken s p rest).status = s.status := rfl
@[simp] theorem taken_keyValid (s : State) (p : Payload) (rest : List HostMove) : (taken s p rest).keyValid = s.keyValid := rfl
@[simp] theorem taken_cfgRounds (s : State) (p : Payload) (rest : List HostMove) : (taken s p rest).cfgRounds = s.cfgRounds := rfl
@[simp] theorem taken_cfgWsize (s : State) (p : Payload) (rest : List HostMove) : (taken s p rest).cfgWsize = s.cfgWsize := rfl
@[simp] theorem taken_table (s : State) (p : Payload) (rest : List HostMove) : (taken s p rest).table = s.table := rfl
@[simp] theorem taken_build (s : State) (p : Payload) (rest : List HostMove) : (taken s p rest).build = s.build := rfl
@[simp] theorem taken_input (s : State) (p : Payload) (rest : List HostMove) : (taken s p rest).input = p := rfl
@[simp] theorem taken_responses (s : State) (p : Payload) (rest : List HostMove) : (taken s p rest).responses = s.responses := rfl
@[simp] theorem taken_host (s : State) (p : Payload) (rest : List HostMove) : (taken s p rest).host = rest := rfl
@[simp] theorem taken_rng (s : State) (p : Payload) (rest : List HostMove) : (taken s p rest).rng = s.rng := rfl
@[simp] theorem taken_draws (s : State) (p : Payload) (rest : List HostMove) : (taken s p rest).draws = s.draws := rfl

end Sys2Proof.Laws
end

