-- ==== Sys2Proof/Laws/Ops.lean ====
section
/-! SUPPORT. What each shared operation of Machine/Ops.lean and Machine/Operands.lean does, said once, in the terms
of the claims. -/

namespace Sys2Proof.Laws

open Sys2Proof.Machine Sys2Proof.Claims

theorem respond_eq_answered (v : Payload) (s : State) : respond v s = answered s v := rfl

theorem raise_eq_rejected (e : ErrorKind) (s : State) : raise e s = rejected s (statusCode e) := by
  cases e <;> rfl

theorem errorCode_eq_statusCode (e : ErrorKind) : errorCode e = statusCode e := by cases e <;> rfl

theorem statusCode_ne_ok (e : ErrorKind) : statusCode e ≠ 0x00#8 := by cases e <;> decide

theorem statusCode_le_8 (e : ErrorKind) : (statusCode e).toNat ≤ 8 := by cases e <;> decide

theorem acceptCommand_eq_taken (p : Payload) (rest : List HostMove) (s : State) :
    acceptCommand p rest s = taken s p rest := rfl

/-- A draw answers `nextDraw` and leaves `afterDraw`, whether or not the RNG has an answer ready. -/
theorem draw16_eq (s : State) : draw16 s = (nextDraw s, afterDraw s) := by
  unfold draw16 nextDraw afterDraw
  cases s.rng <;> simp

theorem isKeyed_iff (s : State) : isKeyed s = true ↔ s.keyValid = 1#1 := by simp [isKeyed]

theorem keyValid_cases (v : BitVec 1) : v = 0#1 ∨ v = 1#1 := by revert v; decide

theorem fits_iff_admits (s : State) (n : Nat) : fits s.build n = true ↔ Admits s n := by
  cases h : s.build.maxPayload <;> simp [fits, Admits, h]

theorem admits_zero (s : State) : Admits s 0 := by
  cases h : s.build.maxPayload <;> simp [Admits, h]

/-- `withKey` runs its command where KEYVALID = 1 and raises `NotKeyed` where it is 0. -/
theorem withKey_eq (s k : State) :
    withKey s k = if s.keyValid = 1#1 then k else rejected s 0x07#8 := by
  by_cases h : s.keyValid = 1#1 <;> simp [withKey, isKeyed, h, raise_eq_rejected, statusCode]

/-- `withBytes` passes on the bytes of an admitted payload of the right kind and length. -/
theorem withBytes_of (ok : Nat → Bool) (s : State) (k : List Byte → State) (bs : List Byte)
    (h : s.input = .bytes bs) (hok : ok bs.length = true) (ha : Admits s bs.length) :
    withBytes ok s k = k bs := by
  have := (fits_iff_admits s bs.length).2 ha
  simp [withBytes, h, hok, this]

/-- Everything `withBytes` can do. -/
theorem withBytes_cases (ok : Nat → Bool) (s : State) (k : List Byte → State) :
    (∃ bs, s.input = .bytes bs ∧ ok bs.length = true ∧ Admits s bs.length ∧ withBytes ok s k = k bs) ∨
      (s.input.kind ≠ .bytes ∨ ok s.input.length = false ∨ ¬ Admits s s.input.length) ∧
        withBytes ok s k = rejected s 0x06#8 := by
  cases h : s.input with
  | bytes bs =>
    by_cases hok : ok bs.length = true
    · by_cases ha : Admits s bs.length
      · exact .inl ⟨bs, rfl, hok, ha, withBytes_of ok s k bs h hok ha⟩
      · refine .inr ⟨.inr (.inr ha), ?_⟩
        have : fits s.build bs.length = false := by
          simpa using mt (fits_iff_admits s bs.length).1 ha
        simp [withBytes, h, this, raise_eq_rejected, statusCode]
    · refine .inr ⟨.inr (.inl (by simpa [Payload.length] using hok)), ?_⟩
      simp [withBytes, h, hok, raise_eq_rejected, statusCode]
  | text us => exact .inr ⟨.inl (by simp [Payload.kind]), by simp [withBytes, h, raise_eq_rejected, statusCode]⟩
  | words ws => exact .inr ⟨.inl (by simp [Payload.kind]), by simp [withBytes, h, raise_eq_rejected, statusCode]⟩

/-- `withText` passes on the units of an admitted Text payload. -/
theorem withText_of (s : State) (k : List CodeUnit → State) (us : List CodeUnit)
    (h : s.input = .text us) (ha : Admits s us.length) : withText s k = k us := by
  have := (fits_iff_admits s us.length).2 ha
  simp [withText, h, this]

/-- Everything `withText` can do. -/
theorem withText_cases (s : State) (k : List CodeUnit → State) :
    (∃ us, s.input = .text us ∧ Admits s us.length ∧ withText s k = k us) ∨
      (s.input.kind ≠ .text ∨ ¬ Admits s s.input.length) ∧ withText s k = rejected s 0x06#8 := by
  cases h : s.input with
  | text us =>
    by_cases ha : Admits s us.length
    · exact .inl ⟨us, rfl, ha, withText_of s k us h ha⟩
    · refine .inr ⟨.inr ha, ?_⟩
      have : fits s.build us.length = false := by simpa using mt (fits_iff_admits s us.length).1 ha
      simp [withText, h, this, raise_eq_rejected, statusCode]
  | bytes bs => exact .inr ⟨.inl (by simp [Payload.kind]), by simp [withText, h, raise_eq_rejected, statusCode]⟩
  | words ws => exact .inr ⟨.inl (by simp [Payload.kind]), by simp [withText, h, raise_eq_rejected, statusCode]⟩

/-- `withWords` passes on the words of an admitted Words payload. -/
theorem withWords_of (s : State) (k : List Word → State) (ws : List Word)
    (h : s.input = .words ws) (ha : Admits s ws.length) : withWords s k = k ws := by
  have := (fits_iff_admits s ws.length).2 ha
  simp [withWords, h, this]

/-- Everything `withWords` can do. -/
theorem withWords_cases (s : State) (k : List Word → State) :
    (∃ ws, s.input = .words ws ∧ Admits s ws.length ∧ withWords s k = k ws) ∨
      (s.input.kind ≠ .words ∨ ¬ Admits s s.input.length) ∧ withWords s k = rejected s 0x06#8 := by
  cases h : s.input with
  | words ws =>
    by_cases ha : Admits s ws.length
    · exact .inl ⟨ws, rfl, ha, withWords_of s k ws h ha⟩
    · refine .inr ⟨.inr ha, ?_⟩
      have : fits s.build ws.length = false := by simpa using mt (fits_iff_admits s ws.length).1 ha
      simp [withWords, h, this, raise_eq_rejected, statusCode]
  | bytes bs => exact .inr ⟨.inl (by simp [Payload.kind]), by simp [withWords, h, raise_eq_rejected, statusCode]⟩
  | text us => exact .inr ⟨.inl (by simp [Payload.kind]), by simp [withWords, h, raise_eq_rejected, statusCode]⟩

/-- Everything `withTwoWords` can do. -/
theorem withTwoWords_cases (s : State) (k : Word → Word → State) :
    (∃ a b, s.input = .words [a, b] ∧ Admits s 2 ∧ withTwoWords s k = k a b) ∨
      (s.input.kind ≠ .words ∨ (s.input.length == 2) = false ∨ ¬ Admits s s.input.length) ∧
        withTwoWords s k = rejected s 0x06#8 := by
  rcases withWords_cases s (twoWords s k) with ⟨ws, h, ha, e⟩ | ⟨h, e⟩
  · rw [withTwoWords, e]
    match ws, h, ha with
    | [a, b], h, ha => exact .inl ⟨a, b, h, ha, rfl⟩
    | [], h, _ => exact .inr ⟨.inr (.inl (by simp [h, Payload.length])), raise_eq_rejected _ _⟩
    | [_], h, _ => exact .inr ⟨.inr (.inl (by simp [h, Payload.length])), raise_eq_rejected _ _⟩
    | _ :: _ :: _ :: _, h, _ =>
      exact .inr ⟨.inr (.inl (by simp [h, Payload.length])), raise_eq_rejected _ _⟩
  · exact .inr ⟨h.imp_right .inr, by rw [withTwoWords, e]⟩

theorem rEff_eq (k : KFields) : rEff k = effectiveRounds k := rfl

theorem wEff_eq (k : KFields) : wEff k = effectiveWordSize k := by
  cases h : k.dw <;> simp [wEff, wslEff, effectiveWordSize, h]

/-- Everything a key setup can do once its payload is taken. -/
theorem keySetup_cases (f : KFields) (key : List Byte) (s : State) :
    keySetup f key s =
      if effectiveRounds f < 1 ∨ 255 < effectiveRounds f then rejected s 0x01#8
      else if effectiveWordSize f ≠ 64 then rejected s 0x02#8
      else if key = [] ∧ s.build.emptyKey = .reject then rejected s 0x08#8
      else answered (installTable (effectiveRounds f)
        (keySchedule s.build.ksStore key (effectiveRounds f)) s) (.bytes []) := by
  simp only [keySetup, rEff_eq, wEff_eq, raise_eq_rejected, statusCode, respond_eq_answered]

/-- What a subkey read gives inside the table. -/
theorem subkey_of_lt (S : List Word) (i : Nat) (h : i < S.length) : subkey S i = S[i] := by
  simp [subkey, h]

end Sys2Proof.Laws
end

