-- ==== Sys2Proof/Laws/Exec.lean ====
section
/-! SUPPORT. Everything a command can do, said once: `exec_cases`. Invariants and frames of all commands follow from
it without unfolding a meaning again. -/

namespace Sys2Proof.Laws

open Sys2Proof.Machine Sys2Proof.Claims

/-- The four ways a command ends. -/
inductive Ending (i : Instr) (s : State) : State → Prop where
  /-- With an error. -/
  | error (e : ErrorKind) : Ending i s (rejected s (statusCode e))
  /-- With an output, no register written and no draw taken. -/
  | output (v : Payload) (hk : keySetupCommand i = false) (hd : drawingCommand i = false)
      (hv : v.kind = declaredOut i) : Ending i s (answered s v)
  /-- With an output and one draw taken. -/
  | drawn (v : Payload) (hk : keySetupCommand i = false) (hd : drawingCommand i = true)
      (hv : v.kind = declaredOut i) : Ending i s (answered (afterDraw s) v)
  /-- With a new table. -/
  | keyed (k : KFields) (key : List Byte) (hi : i = .keyset k ∨ i = .keysetb k) (hr : 1 ≤ effectiveRounds k)
      (hr' : effectiveRounds k ≤ 255) (hw : effectiveWordSize k = 64) :
      Ending i s (answered (installTable (effectiveRounds k)
        (keySchedule s.build.ksStore key (effectiveRounds k)) s) (.bytes []))

theorem ending_malformed (i : Instr) (s : State) : Ending i s (rejected s 0x06#8) := .error .malformedPayload

theorem ending_raise (i : Instr) (e : ErrorKind) (s : State) : Ending i s (raise e s) := by
  rw [raise_eq_rejected]
  exact .error e

/-- A command that takes bytes ends as the rest of it does. -/
theorem ending_withBytes {i : Instr} {s : State} (ok : Nat → Bool) {k : List Byte → State}
    (h : ∀ bs, Ending i s (k bs)) : Ending i s (withBytes ok s k) := by
  rcases withBytes_cases ok s k with ⟨bs, -, -, -, e⟩ | ⟨-, e⟩ <;> rw [e]
  · exact h bs
  · exact ending_malformed i s

/-- A command that takes text ends as the rest of it does. -/
theorem ending_withText {i : Instr} {s : State} {k : List CodeUnit → State}
    (h : ∀ us, Ending i s (k us)) : Ending i s (withText s k) := by
  rcases withText_cases s k with ⟨us, -, -, e⟩ | ⟨-, e⟩ <;> rw [e]
  · exact h us
  · exact ending_malformed i s

/-- A command that takes words ends as the rest of it does. -/
theorem ending_withWords {i : Instr} {s : State} {k : List Word → State}
    (h : ∀ ws, Ending i s (k ws)) : Ending i s (withWords s k) := by
  rcases withWords_cases s k with ⟨ws, -, -, e⟩ | ⟨-, e⟩ <;> rw [e]
  · exact h ws
  · exact ending_malformed i s

/-- A command that takes two words ends as the rest of it does. -/
theorem ending_withTwoWords {i : Instr} {s : State} {k : Word → Word → State}
    (h : ∀ a b, Ending i s (k a b)) : Ending i s (withTwoWords s k) := by
  rcases withTwoWords_cases s k with ⟨a, b, -, -, e⟩ | ⟨-, e⟩ <;> rw [e]
  · exact h a b
  · exact ending_malformed i s

/-- A keyed command ends as the rest of it does. -/
theorem ending_withKey {i : Instr} {s k : State} (h : Ending i s k) : Ending i s (withKey s k) := by
  rw [withKey_eq]
  split
  · exact h
  · exact .error .notKeyed

/-- A key setup ends with an error or with a new table. -/
theorem ending_keySetup {i : Instr} {s : State} (k : KFields) (key : List Byte)
    (hi : i = .keyset k ∨ i = .keysetb k) : Ending i s (keySetup k key s) := by
  rw [keySetup_cases]
  split
  · exact .error .invalidRounds
  split
  · exact .error .unsupportedWordSize
  split
  · exact .error .emptyKeyRejected
  · exact .keyed k key hi (by omega) (by omega) (by omega)

/-- DECRYPT's two errors and its result. -/
theorem ending_decryptText (s : State) (x : Except ErrorKind (List CodeUnit)) :
    Ending .decrypt s (match x with
      | .error e => raise e s
      | .ok us => respond (.text us) s) := by
  cases x with
  | error e => exact ending_raise _ e s
  | ok us => exact .output _ rfl rfl rfl

/-- An optional result: an error where there is none. -/
theorem ending_option {i : Instr} {s : State} (e : ErrorKind) (f : List Byte → Payload)
    (hk : keySetupCommand i = false) (hd : drawingCommand i = false) (hf : ∀ d, (f d).kind = declaredOut i)
    (x : Option (List Byte)) :
    Ending i s (match x with
      | none => raise e s
      | some d => respond (f d) s) := by
  cases x with
  | none => exact ending_raise _ e s
  | some d => exact .output _ hk hd (hf d)

/-- Every command ends, in one of the four ways. -/
theorem exec_cases (i : Instr) (s : State) : ∃ t, exec i s = .next t ∧ Ending i s t := by
  cases i with
  | keyset k => exact ⟨_, rfl, ending_withText fun us => ending_keySetup k _ (.inl rfl)⟩
  | keysetb k => exact ⟨_, rfl, ending_withBytes _ fun bs => ending_keySetup k _ (.inr rfl)⟩
  | skread => exact ⟨_, rfl, ending_withBytes _ fun _ => ending_withKey (.output _ rfl rfl rfl)⟩
  | cfgrd => exact ⟨_, rfl, ending_withBytes _ fun _ => .output _ rfl rfl rfl⟩
  | encblk => exact ⟨_, rfl, ending_withBytes _ fun _ => ending_withKey (.output _ rfl rfl rfl)⟩
  | decblk => exact ⟨_, rfl, ending_withBytes _ fun _ => ending_withKey (.output _ rfl rfl rfl)⟩
  | cbcenc =>
    refine ⟨_, rfl, ending_withBytes _ fun p => ending_withKey ?_⟩
    rw [draw16_eq]
    exact .drawn _ rfl rfl rfl
  | cbcdec =>
    exact ⟨_, rfl, ending_withBytes _ fun d =>
      ending_withKey (ending_option .invalidCiphertext Payload.bytes rfl rfl (fun _ => rfl) _)⟩
  | pad => exact ⟨_, rfl, ending_withBytes _ fun _ => .output _ rfl rfl rfl⟩
  | unpad =>
    exact ⟨_, rfl, ending_withBytes _ fun d =>
      ending_option .paddingValidationFailure Payload.bytes rfl rfl (fun _ => rfl) _⟩
  | utf8enc => exact ⟨_, rfl, ending_withText fun _ => .output _ rfl rfl rfl⟩
  | utf8dec => exact ⟨_, rfl, ending_withBytes _ fun _ => .output _ rfl rfl rfl⟩
  | b64enc => exact ⟨_, rfl, ending_withBytes _ fun _ => .output _ rfl rfl rfl⟩
  | b64dec =>
    exact ⟨_, rfl, ending_withText fun us =>
      ending_option .invalidCiphertext Payload.bytes rfl rfl (fun _ => rfl) _⟩
  | hexof => exact ⟨_, rfl, ending_withBytes _ fun _ => .output _ rfl rfl rfl⟩
  | wadd => exact ⟨_, rfl, ending_withTwoWords fun _ _ => .output _ rfl rfl rfl⟩
  | wsub => exact ⟨_, rfl, ending_withTwoWords fun _ _ => .output _ rfl rfl rfl⟩
  | wxor => exact ⟨_, rfl, ending_withTwoWords fun _ _ => .output _ rfl rfl rfl⟩
  | wrotl => exact ⟨_, rfl, ending_withTwoWords fun _ _ => .output _ rfl rfl rfl⟩
  | wrotr => exact ⟨_, rfl, ending_withTwoWords fun _ _ => .output _ rfl rfl rfl⟩
  | b2w => exact ⟨_, rfl, ending_withBytes _ fun _ => .output _ rfl rfl rfl⟩
  | w2b => exact ⟨_, rfl, ending_withWords fun _ => .output _ rfl rfl rfl⟩
  | encrypt =>
    refine ⟨_, rfl, ending_withText fun us => ending_withKey ?_⟩
    rw [draw16_eq]
    exact .drawn _ rfl rfl rfl
  | decrypt => exact ⟨_, rfl, ending_withText fun us => ending_withKey (ending_decryptText s _)⟩

/-- The inversion form of `exec_cases`. -/
theorem ending_of_exec {i : Instr} {s t : State} (h : exec i s = .next t) : Ending i s t := by
  obtain ⟨t', h', he⟩ := exec_cases i s
  rw [h] at h'
  cases h'
  exact he

end Sys2Proof.Laws
end

