-- ==== Sys2Proof/Laws/PerInstr.lean ====
section
/-! SUPPORT. Statements about every instruction as syntax, one lemma per constructor. Family OpcodeBits: the low
eight bits of a command's word are its opcode (30_encoding.md R80, R81, R82). -/

namespace Sys2Proof.Laws.OpcodeBits

/-- Bits [7:0] of the word of `i` are the opcode of `i`. -/
def Statement (i : Instr) : Prop := bits (encode i) 7 0 = i.opcode

theorem append_low (n : Nat) (x : BitVec n) (opc : BitVec 8) : (x ++ opc).extractLsb' 0 8 = opc := by
  ext j hj
  have h8 : j < 8 := hj
  simp [BitVec.getLsbD_append, h8]

theorem keyset (k : KFields) : Statement (.keyset k) := append_low _ _ _
theorem keysetb (k : KFields) : Statement (.keysetb k) := append_low _ _ _
theorem skread : Statement .skread := append_low _ _ _
theorem cfgrd : Statement .cfgrd := append_low _ _ _
theorem encblk : Statement .encblk := append_low _ _ _
theorem decblk : Statement .decblk := append_low _ _ _
theorem cbcenc : Statement .cbcenc := append_low _ _ _
theorem cbcdec : Statement .cbcdec := append_low _ _ _
theorem pad : Statement .pad := append_low _ _ _
theorem unpad : Statement .unpad := append_low _ _ _
theorem utf8enc : Statement .utf8enc := append_low _ _ _
theorem utf8dec : Statement .utf8dec := append_low _ _ _
theorem b64enc : Statement .b64enc := append_low _ _ _
theorem b64dec : Statement .b64dec := append_low _ _ _
theorem hexof : Statement .hexof := append_low _ _ _
theorem wadd : Statement .wadd := append_low _ _ _
theorem wsub : Statement .wsub := append_low _ _ _
theorem wxor : Statement .wxor := append_low _ _ _
theorem wrotl : Statement .wrotl := append_low _ _ _
theorem wrotr : Statement .wrotr := append_low _ _ _
theorem b2w : Statement .b2w := append_low _ _ _
theorem w2b : Statement .w2b := append_low _ _ _
theorem encrypt : Statement .encrypt := append_low _ _ _
theorem decrypt : Statement .decrypt := append_low _ _ _

end Sys2Proof.Laws.OpcodeBits
end

