-- ==== Sys2Proof/Machine/Assembler.lean ====
section
/-! DEFINITION. The spec's assembler syntax (30_encoding.md R89): how a command and its payload are written, and
which command word the key-setup fields `r, w` stand for. It is notation for the host's side, and no command
depends on it. Where the spec writes no text for a command, there is none here (log 14). -/

namespace Sys2Proof.Machine

/-- The mnemonic of a command (30_encoding.md R85). -/
def mnemonic : Instr → String
  | .keyset _ => "KEYSET"
  | .keysetb _ => "KEYSETB"
  | .skread => "SKREAD"
  | .cfgrd => "CFGRD"
  | .encblk => "ENCBLK"
  | .decblk => "DECBLK"
  | .cbcenc => "CBCENC"
  | .cbcdec => "CBCDEC"
  | .pad => "PAD"
  | .unpad => "UNPAD"
  | .utf8enc => "UTF8ENC"
  | .utf8dec => "UTF8DEC"
  | .b64enc => "B64ENC"
  | .b64dec => "B64DEC"
  | .hexof => "HEXOF"
  | .wadd => "WADD"
  | .wsub => "WSUB"
  | .wxor => "WXOR"
  | .wrotl => "WROTL"
  | .wrotr => "WROTR"
  | .b2w => "B2W"
  | .w2b => "W2B"
  | .encrypt => "ENCRYPT"
  | .decrypt => "DECRYPT"

/-- The fields of `KEYSET r, w, ...`: r is ROUNDS, and w, 32 or 64, is encoded as WSL = log2 w (30_encoding.md
R89). -/
def asmFields (r : BitVec 16) (w : Nat) : KFields :=
  { wsl := BitVec.ofNat 3 (Nat.log2 w), dw := false, dr := false, rounds := r }

/-- A hexadecimal number of `n` digits. -/
def hexDigits : Nat → Nat → String
  | 0, _ => ""
  | n + 1, v => hexDigits n (v / 16) ++ String.singleton (Nat.digitChar (v % 16))

/-- A list of items joined by a separator. -/
def joined (sep : String) : List String → String
  | [] => ""
  | [x] => x
  | x :: xs => x ++ sep ++ joined sep xs

/-- The character a code unit is on its own; a surrogate is none (R89 turns characters into code units; log 14). -/
def unitCharacter (x : CodeUnit) : Option Char :=
  if isHighSurrogate x || isLowSurrogate x then none else some (Char.ofNat x.toNat)

/-- The string of characters whose UTF-16 code units are `us` (30_encoding.md R89): a surrogate pair is one character.
DESIGN CHOICE (log 14): a lone surrogate is no character's, the spec is silent on it, and there is no string. -/
def textCharacters : List CodeUnit → Option (List Char)
  | [] => some []
  | [x] => (unitCharacter x).map fun c => [c]
  | x :: y :: rest =>
    if isHighSurrogate x && isLowSurrogate y then
      (textCharacters rest).map fun cs => Char.ofNat (pairValue x y).toNat :: cs
    else
      match unitCharacter x, textCharacters (y :: rest) with
      | some c, some cs => some (c :: cs)
      | _, _ => none

/-- A payload literal (30_encoding.md R89): characters in double quotes, bytes in square brackets, words in
braces. DESIGN CHOICE (log 14): no literal for a Text with a lone surrogate, and lowercase digits, 2 to a byte and 16
to a word. -/
def payloadLiteral : Payload → Option String
  | .text us => (textCharacters us).map fun cs => "\"" ++ String.ofList cs ++ "\""
  | .bytes bs => some ("[" ++ joined " " (bs.map fun b => hexDigits 2 b.toNat) ++ "]")
  | .words ws =>
    some (String.singleton (Char.ofNat 0x7B) ++ joined ", " (ws.map fun w => hexDigits 16 w.toNat)
      ++ String.singleton (Char.ofNat 0x7D))

/-- The key-setup fields as the syntax writes them: both (30_encoding.md R89), the round count alone, or neither (R90).
DESIGN CHOICE (log 14): the spec writes no text for DR = 1 with DW = 0, nor for a word size but 32 and 64, and there is
none here; `KEYSET 64, "k"` is R90's text for 64 rounds. -/
def fieldsLiteral (k : KFields) : Option String :=
  match k.dr, k.dw with
  | true, true => some ""
  | false, true => some (toString k.rounds.toNat ++ ", ")
  | false, false =>
    if k.wsl = 5#3 ∨ k.wsl = 6#3 then some (toString k.rounds.toNat ++ ", " ++ toString (2 ^ k.wsl.toNat) ++ ", ")
    else none
  | true, false => none

/-- The fields before the payload literal: a format-N command has none (30_encoding.md R84, R89). -/
def fieldsText (i : Instr) : Option String :=
  match i with
  | .keyset k => fieldsLiteral k
  | .keysetb k => fieldsLiteral k
  | .skread => some ""
  | .cfgrd => some ""
  | .encblk => some ""
  | .decblk => some ""
  | .cbcenc => some ""
  | .cbcdec => some ""
  | .pad => some ""
  | .unpad => some ""
  | .utf8enc => some ""
  | .utf8dec => some ""
  | .b64enc => some ""
  | .b64dec => some ""
  | .hexof => some ""
  | .wadd => some ""
  | .wsub => some ""
  | .wxor => some ""
  | .wrotl => some ""
  | .wrotr => some ""
  | .b2w => some ""
  | .w2b => some ""
  | .encrypt => some ""
  | .decrypt => some ""

/-- A well-formed command with its payload, as the spec writes it, where it writes it (30_encoding.md R89; log 14). -/
def assemblerText (i : Instr) (p : Payload) : Option String :=
  match fieldsText i, payloadLiteral p with
  | some fields, some literal => some (mnemonic i ++ " " ++ fields ++ literal)
  | _, _ => none

end Sys2Proof.Machine
end

