-- ==== Sys2Proof/Tests/Slice0.lean ====
section
/-! SUPPORT. Tests on fixed values. Expected results are transcribed from spec/95_test_vectors.md (the vector's name
stands in each docstring), from the encoding examples 30_encoding.md R90 and R91, and from the rules named. -/

namespace Sys2Proof.Tests

open Sys2Proof.Machine Sys2Proof.Claims

/-! ## Helpers -/

/-- A Text payload of characters below U+10000. -/
def text (s : String) : Payload := .text (s.toList.map fun c => BitVec.ofNat 16 c.toNat)

/-- A Text payload of code units. -/
def units (l : List Nat) : Payload := .text (l.map (BitVec.ofNat 16))

/-- A Bytes payload. -/
def bytes (l : List Nat) : Payload := .bytes (l.map (BitVec.ofNat 8))

/-- A Words payload. -/
def words (l : List Nat) : Payload := .words (l.map (BitVec.ofNat 64))

/-- "IVc", the 16 bytes 00 01 02 ... 0f. -/
def ivc : Iv := Vector.ofFn fun i => BitVec.ofNat 8 i.val

/-- The state after the key setup of V-KS-6: r = 1, key "test". -/
def keyedOne : State :=
  { State.reset with
    keyValid := 1#1, cfgRounds := 1#8, cfgWsize := 64#8,
    table := [0x372D397723D4E7F9#64, 0xEBAE9778221F3EC0#64, 0x8FDF3E72527BA482#64, 0x3B964C73871298CB#64] }

/-- The subkey table of V-KS-1. -/
def tableTwelve : List Word :=
  [0xBB3281A2989FAE26#64, 0x8BD89EA08A7C2327#64, 0xC71D2FBF5F708C64#64, 0x8587841C25C73125#64,
   0xB81032E935F44E70#64, 0x0BB7FCE2B7EF78DB#64, 0x9F57C627D3D464A0#64, 0x212C334FDAB31E9E#64,
   0x62BD636CB34A2F4F#64, 0x6AC572AED077C227#64, 0xCC0F001E673FC9DD#64, 0x82A612195DEAABB5#64,
   0xAA3DC131AE70EDED#64] ++
  [0x5DF0B5034744E344#64, 0xFA471BD40A31BCD4#64, 0xA575D3642708D2C4#64, 0x1223701F196D1F1E#64,
   0x5EE67AE8D58754DC#64, 0x1622462767EB9A3B#64, 0xDE30EF5A5972396B#64, 0xD279CD2CB8B9C4B7#64,
   0xD305CFD78B81D191#64, 0xDF0B440B9CEE7294#64, 0x5CC33CD420C8A71F#64, 0x08A9DD9E2823DE45#64,
   0x6BA809D30ED9500C#64]

/-- The state after the key setup of V-KS-1, r = 12, key "test", with IVc ready to be drawn. -/
def keyedTwelve : State :=
  { State.reset with
    keyValid := 1#1, cfgRounds := 12#8, cfgWsize := 64#8, table := tableTwelve, rng := [ivc] }

/-- `s` under `UNPAD_POLICY = FailClosed`. -/
def failClosed (s : State) : State := { s with build := { s.build with unpad := .failClosed } }

/-- The state one step on a command leaves. -/
def after (s : State) (w : BitVec 32) (p : Payload) : Option State :=
  match step { s with host := [.command w p] } with
  | .next t => some t
  | .fault _ => none
  | .refused _ => none

/-- One step on a command answers OK with output `v`. -/
def gives (s : State) (w : BitVec 32) (p v : Payload) : Prop :=
  ((after s w p).bind fun t => t.responses.head?) = some { st := 0x00#8, out := some v }

/-- One step on a command ends with error code `c` and changes nothing but STATUS. -/
def fails (s : State) (w : BitVec 32) (p : Payload) (c : BitVec 8) : Prop :=
  after s w p = some { s with input := p, host := [], status := c, responses := [{ st := c, out := none }] }

/-- One step on a command leaves the subkey table `S`. -/
def leavesTable (s : State) (w : BitVec 32) (p : Payload) (S : List Word) : Prop :=
  (after s w p).map State.table = some S

/-! ## Well-formedness: one ill-formed term per check -/

/-- DW = 1 with WSL = 6 (30_encoding.md R86 (d)). -/
theorem test_wslOk_refuses :
    ({ wsl := 6, dw := true, dr := false, rounds := 12 } : KFields).wslOk = false ∧
    (Instr.keyset { wsl := 6, dw := true, dr := false, rounds := 12 }).wellFormed = false := by decide

/-- DR = 1 with ROUNDS = 12 (30_encoding.md R86 (e)). -/
theorem test_roundsOk_refuses :
    ({ wsl := 6, dw := false, dr := true, rounds := 12 } : KFields).roundsOk = false ∧
    (Instr.keysetb { wsl := 6, dw := false, dr := true, rounds := 12 }).wellFormed = false := by decide

/-! ## Decoding: one word per constructor -/

/-- 0x000C0601 is 0000000000001100 000 0 0 110 00000001 (R91). -/
theorem test_decode_keyset :
    decode 0x000C0601#32 = .ok (.keyset { wsl := 6, dw := false, dr := false, rounds := 12 }) ∧
    decode (0b0000000000001100#16 ++ 0b000#3 ++ 0b0#1 ++ 0b0#1 ++ 0b110#3 ++ 0b00000001#8) =
      .ok (.keyset { wsl := 6, dw := false, dr := false, rounds := 12 }) := ⟨rfl, rfl⟩

/-- 0x00010602 of V-KS-4, and 0x00001802 of R90. -/
theorem test_decode_keysetb :
    decode 0x00010602#32 = .ok (.keysetb { wsl := 6, dw := false, dr := false, rounds := 1 }) ∧
    decode 0x00001802#32 = .ok (.keysetb { wsl := 0, dw := true, dr := true, rounds := 0 }) := ⟨rfl, rfl⟩

/-- The format-N words 0x03 to 0x21 (R85). -/
theorem test_decode_table_and_block :
    decode 0x00000003#32 = .ok .skread ∧ decode 0x00000004#32 = .ok .cfgrd ∧
    decode 0x00000010#32 = .ok .encblk ∧ decode 0x00000011#32 = .ok .decblk ∧
    decode 0x00000020#32 = .ok .cbcenc ∧ decode 0x00000021#32 = .ok .cbcdec := ⟨rfl, rfl, rfl, rfl, rfl, rfl⟩

/-- The format-N words 0x30 to 0x44 (R85). -/
theorem test_decode_codecs :
    decode 0x00000030#32 = .ok .pad ∧ decode 0x00000031#32 = .ok .unpad ∧
    decode 0x00000040#32 = .ok .utf8enc ∧ decode 0x00000041#32 = .ok .utf8dec ∧
    decode 0x00000042#32 = .ok .b64enc ∧ decode 0x00000043#32 = .ok .b64dec ∧
    decode 0x00000044#32 = .ok .hexof := ⟨rfl, rfl, rfl, rfl, rfl, rfl, rfl⟩

/-- The format-N words 0x50 to 0x61 (R85). -/
theorem test_decode_words_and_engine :
    decode 0x00000050#32 = .ok .wadd ∧ decode 0x00000051#32 = .ok .wsub ∧ decode 0x00000052#32 = .ok .wxor ∧
    decode 0x00000053#32 = .ok .wrotl ∧ decode 0x00000054#32 = .ok .wrotr ∧ decode 0x00000055#32 = .ok .b2w ∧
    decode 0x00000056#32 = .ok .w2b ∧ decode 0x00000060#32 = .ok .encrypt ∧
    decode 0x00000061#32 = .ok .decrypt := ⟨rfl, rfl, rfl, rfl, rfl, rfl, rfl, rfl, rfl⟩

/-- Each condition of R86, (a) to (e); the last two words are P2 step 2's and V-KS-14's. -/
theorem test_decode_illegal :
    decode 0x000000FF#32 = .error .unassignedOpcode ∧ decode 0x00002601#32 = .error .reservedBitsK ∧
    decode 0x00000E01#32 = .error .wslWithDefault ∧ decode 0x00000160#32 = .error .reservedBitsN ∧
    decode 0x000C1801#32 = .error .roundsWithDefault := ⟨rfl, rfl, rfl, rfl, rfl⟩

/-- The host's word and the next step: a bare WADD runs first after reset. -/
theorem test_withFetchWord :
    decodeTableWord 32 0x50 = some .wadd ∧
    step (State.reset.withFetchWord 32 0x50) =
      .next { State.reset with
        input := .words [0#64, 0#64], responses := [{ st := 0x00#8, out := some (.words [0#64]) }] } := ⟨rfl, rfl⟩

/-- R89 and R91: `KEYSET 12, 64, "k"`; R90: `KEYSET r, "k"`; a Bytes and a Words literal. -/
theorem test_assembler :
    encode (.keyset (asmFields 12 64)) = 0x000C0601#32 ∧
    assemblerText (.keyset (asmFields 12 64)) (text "k") = some "KEYSET 12, 64, \"k\"" ∧
    assemblerText (Pseudo.keysetRounds 64).expand (text "k") = some "KEYSET 64, \"k\"" ∧
    assemblerText .encblk (bytes [0x41, 0x42]) = some "ENCBLK [41 42]" := by decide +kernel

/-- R89: a surrogate pair is one character. Log 14: no text for a lone surrogate, nor for the word 0x00001601. -/
theorem test_assembler_text :
    textCharacters [0x68#16, 0xD83D#16, 0xDE00#16] = some [Char.ofNat 0x68, Char.ofNat 0x1F600] ∧
    assemblerText .encrypt (units [0xD83D]) = none ∧
    decode 0x00001601#32 = .ok (.keyset { wsl := 6, dw := false, dr := true, rounds := 0 }) ∧
    assemblerText (.keyset { wsl := 6, dw := false, dr := true, rounds := 0 }) (text "k") = none :=
  ⟨by decide +kernel, by decide +kernel, rfl, by decide +kernel⟩

/-! ## Word arithmetic -/

/-- V-W-2. -/
theorem test_wadd_wraps : gives State.reset 0x00000050#32
    (words [0xB7E151628AED2A6B, 0x9E3779B97F4A7C15]) (words [0x5618CB1C0A37A680]) := by unfold gives; decide +kernel

/-- V-W-20. -/
theorem test_wadd_one_word : fails State.reset 0x00000050#32 (words [1]) 0x06#8 := by unfold fails; decide +kernel

/-- V-W-3. -/
theorem test_wsub_wraps : gives State.reset 0x00000051#32 (words [0, 1]) (words [0xFFFFFFFFFFFFFFFF]) := by
  unfold gives; decide +kernel

/-- V-W-6. -/
theorem test_wxor : gives State.reset 0x00000052#32
    (words [0xB7E151628AED2A6B, 0x9E3779B97F4A7C15]) (words [0x29D628DBF5A7567E]) := by unfold gives; decide +kernel

/-- V-W-9. -/
theorem test_wrotl : gives State.reset 0x00000053#32
    (words [0x0123456789ABCDEF, 0x3F]) (words [0x8091A2B3C4D5E6F7]) := by unfold gives; decide +kernel

/-- V-W-10. -/
theorem test_wrotl_full_turn : gives State.reset 0x00000053#32
    (words [0x8000000000000001, 64]) (words [0x8000000000000001]) := by unfold gives; decide +kernel

/-- V-W-14. -/
theorem test_wrotr : gives State.reset 0x00000054#32
    (words [0x0123456789ABCDEF, 4]) (words [0xF0123456789ABCDE]) := by unfold gives; decide +kernel

/-- V-W-16. -/
theorem test_b2w_partial_word : gives State.reset 0x00000055#32
    (bytes [1, 2, 3, 4, 5, 6, 7, 8, 9]) (words [0x0807060504030201, 9]) := by unfold gives; decide +kernel

/-- V-W-18. -/
theorem test_w2b : gives State.reset 0x00000056#32
    (words [0x0102030405060708]) (bytes [8, 7, 6, 5, 4, 3, 2, 1]) := by unfold gives; decide +kernel

/-! ## Key schedule -/

/-- V-KS-3: the empty key. -/
theorem test_keyset_empty_key : leavesTable State.reset 0x00010601#32 (text "")
    [0x050264C42911D7C9#64, 0x741D5C5548A3B11A#64, 0x9EA78AA2DC4F10E2#64, 0x6101062F5920F229#64] := by
  unfold leavesTable; decide +kernel

/-- V-KS-1, by the pseudo-command's word. -/
theorem test_keyset_default : leavesTable State.reset 0x00001801#32 (text "test") tableTwelve := by
  unfold leavesTable; decide +kernel

/-- V-KS-5: more key words than table words. -/
theorem test_keysetb_long_key : leavesTable State.reset 0x00010602#32 (bytes (List.range 40))
    [0xAAC5E81906328646#64, 0x9FFB0C2DA6C08C54#64, 0x18F345D546674505#64, 0x99136F27D5382895#64] := by
  unfold leavesTable; decide +kernel

/-- V-KS-12: ROUNDS = 0 goes before w = 32. -/
theorem test_keyset_priority : fails keyedOne 0x00000501#32 (text "k") 0x01#8 := by unfold fails; decide +kernel

/-- V-KS-6, read back. -/
theorem test_skread : gives keyedOne 0x00000003#32 (bytes []) (.words keyedOne.table) := by
  unfold gives; decide +kernel

/-- P2 step 3: a malformed payload goes before NotKeyed. -/
theorem test_skread_priority : fails State.reset 0x00000003#32 (bytes [1]) 0x06#8 := by unfold fails; decide +kernel

/-- CFGRD after V-KS-1. -/
theorem test_cfgrd_keyed : gives keyedTwelve 0x00000004#32 (bytes []) (words [1, 0xC, 0x40, 0x1A]) := by
  unfold gives; decide +kernel

/-- CFGRD after reset. -/
theorem test_cfgrd_reset : gives State.reset 0x00000004#32 (bytes []) (words [0, 0, 0, 0]) := by
  unfold gives; decide +kernel

/-! ## Block cipher and CBC -/

/-- V-BC-3: a short block. -/
theorem test_encblk_short : gives keyedTwelve 0x00000010#32 (bytes [0x41, 0x42])
    (bytes [0xa0, 0xd1, 0xfd, 0x2e, 0x12, 0x6d, 0x6f, 0x94, 0x4d, 0x16, 0xf9, 0xf2, 0x96, 0xb5, 0xb0, 0x65]) := by
  unfold gives; decide +kernel

/-- V-BC-8. -/
theorem test_encblk_one_round : gives keyedOne 0x00000010#32 (bytes (List.replicate 16 0))
    (bytes [0xbb, 0x7d, 0x47, 0x54, 0x81, 0xec, 0x62, 0x6c, 0xe6, 0x5a, 0xc5, 0x52, 0x53, 0xb0, 0xd4, 0x17]) := by
  unfold gives; decide +kernel

/-- V-BC-6. -/
theorem test_decblk : gives keyedTwelve 0x00000011#32 (bytes (List.replicate 16 0))
    (bytes [0x11, 0x0e, 0x5b, 0xa3, 0x1c, 0x62, 0xdb, 0x21, 0x17, 0xf4, 0x6b, 0x00, 0xee, 0x71, 0xff, 0x94]) := by
  unfold gives; decide +kernel

/-- V-CBC-2: chaining over two equal blocks. -/
theorem test_cbcenc_chains : gives keyedTwelve 0x00000020#32 (bytes (List.replicate 32 0))
    (bytes (List.range 16 ++
      [0x28, 0x90, 0xca, 0xcc, 0xb3, 0xac, 0xde, 0x94, 0x84, 0x66, 0xeb, 0x85, 0x12, 0x73, 0x02, 0x43] ++
      [0xf7, 0x0d, 0x44, 0x30, 0xeb, 0xa4, 0x66, 0x56, 0x6c, 0x00, 0xcb, 0x83, 0x4b, 0x00, 0x8b, 0x00])) := by
  unfold gives; decide +kernel

/-- V-CBC-4: no draw is taken. -/
theorem test_cbcenc_bad_length : fails keyedTwelve 0x00000020#32 (bytes (List.replicate 17 0)) 0x06#8 := by
  unfold fails; decide +kernel

/-- V-CBC-8. -/
theorem test_cbcdec : gives keyedTwelve 0x00000021#32 (bytes (List.range 32))
    (bytes [0xc9, 0x12, 0x9d, 0x8d, 0x83, 0x20, 0x80, 0xa3, 0xdc, 0x9e, 0x35, 0x09, 0x0c, 0xc0, 0x8e, 0xd3]) := by
  unfold gives; decide +kernel

/-- V-CBC-5: length 40. -/
theorem test_cbcdec_bad_length : fails keyedTwelve 0x00000021#32 (bytes (List.range 40)) 0x03#8 := by
  unfold fails; decide +kernel

/-! ## Padding -/

/-- V-PAD-2. -/
theorem test_pad_short : gives State.reset 0x00000030#32 (bytes [0x41, 0x42])
    (bytes ([0x41, 0x42] ++ List.replicate 14 0x0e)) := by unfold gives; decide +kernel

/-- V-PAD-3: a whole block is added. -/
theorem test_pad_full_block : gives State.reset 0x00000030#32 (bytes (List.replicate 16 0x41))
    (bytes (List.replicate 16 0x41 ++ List.replicate 16 0x10)) := by unfold gives; decide +kernel

/-- V-PAD-5. -/
theorem test_unpad : gives State.reset 0x00000031#32 (bytes ([0x41, 0x42] ++ List.replicate 14 0x0e))
    (bytes [0x41, 0x42]) := by unfold gives; decide +kernel

/-- 44_padding.md R195: 0x11 is no padding, unchanged under FailOpen and an error under FailClosed. -/
theorem test_unpad_policies :
    gives State.reset 0x00000031#32 (bytes (List.replicate 15 0 ++ [0x11]))
      (bytes (List.replicate 15 0 ++ [0x11])) ∧
    fails (failClosed State.reset) 0x00000031#32 (bytes (List.replicate 15 0 ++ [0x11])) 0x04#8 := by
  unfold gives fails; decide +kernel

/-! ## Codecs -/

/-- V-U8-10. -/
theorem test_utf8enc : gives State.reset 0x00000040#32 (units [0x68, 0xE9, 0x20AC, 0xD83D, 0xDE00])
    (bytes [0x68, 0xc3, 0xa9, 0xe2, 0x82, 0xac, 0xf0, 0x9f, 0x98, 0x80]) := by unfold gives; decide +kernel

/-- V-U8-8: a high surrogate without a low one. -/
theorem test_utf8enc_lone : gives State.reset 0x00000040#32 (units [0xD83D, 0x41])
    (bytes [0xed, 0xa0, 0xbd, 0x41]) := by unfold gives; decide +kernel

/-- V-U8D-10. -/
theorem test_utf8dec : gives State.reset 0x00000041#32
    (bytes [0x68, 0xc3, 0xa9, 0xe2, 0x82, 0xac, 0xf0, 0x9f, 0x98, 0x80])
    (units [0x68, 0xE9, 0x20AC, 0xD83D, 0xDE00]) := by unfold gives; decide +kernel

/-- V-U8D-1, V-U8D-5 and V-U8D-6 side by side: truncated, too large, overlong. -/
theorem test_utf8dec_malformed :
    gives State.reset 0x00000041#32 (bytes [0xf4, 0x90, 0x80, 0x80]) (units []) ∧
    gives State.reset 0x00000041#32 (bytes [0xf0, 0x8f, 0x80, 0x80]) (units [0xF000]) ∧
    gives State.reset 0x00000041#32 (bytes [0x41, 0xe2, 0x82]) (units [0x41]) := by unfold gives; decide +kernel

/-- V-B64-3. -/
theorem test_b64enc_one_pad : gives State.reset 0x00000042#32 (bytes [0xff, 0xfe]) (text "//4=") := by
  unfold gives; decide +kernel

/-- V-B64-5. -/
theorem test_b64enc : gives State.reset 0x00000042#32
    (bytes [0x68, 0xc3, 0xa9, 0xe2, 0x82, 0xac, 0xf0, 0x9f, 0x98, 0x80]) (text "aMOp4oKs8J+YgA==") := by
  unfold gives; decide +kernel

/-- V-B64-6: unused bits are ignored. -/
theorem test_b64dec_unused_bits : gives State.reset 0x00000043#32 (text "Zh==") (bytes [0x66]) := by
  unfold gives; decide +kernel

/-- V-B64-7. -/
theorem test_b64dec_refuses :
    fails State.reset 0x00000043#32 (text "Zm=v") 0x03#8 ∧ fails State.reset 0x00000043#32 (text "Zg") 0x03#8 ∧
    fails State.reset 0x00000043#32 (text "Z===") 0x03#8 ∧ fails State.reset 0x00000043#32 (text "Zm-v") 0x03#8 := by
  unfold fails; decide +kernel

/-- V-HEX-1. -/
theorem test_hexof : gives State.reset 0x00000044#32 (bytes [0x00, 0xab, 0x1f]) (text "00 ab 1f") := by
  unfold gives; decide +kernel

/-- The alphabet and the digits the claims use, as 46_codecs.md R237 and R250 write them. -/
theorem test_claim_characters :
    alphabet = "ABCDEFGHIJKLMNOPQRSTUVWXYZabcdefghijklmnopqrstuvwxyz0123456789+/".toList.map Char.toNat ∧
    hexCharacters = "0123456789abcdef".toList.map Char.toNat := by decide

/-! ## ENCRYPT and DECRYPT -/

/-- V-E2E-2. -/
theorem test_encrypt : gives keyedTwelve 0x00000060#32 (text "AB")
    (text "AAECAwQFBgcICQoLDA0OD52Ba7jWfO6wj0bS05IVS3g=") := by unfold gives; decide +kernel

/-- V-E2E-11: no draw is taken. -/
theorem test_encrypt_bytes : fails keyedTwelve 0x00000060#32 (bytes [0x41]) 0x06#8 := by
  unfold fails; decide +kernel

/-- V-E2E-6: a flipped IV bit. -/
theorem test_decrypt_flipped : gives keyedTwelve 0x00000061#32
    (text "AQECAwQFBgcICQoLDA0OD52Ba7jWfO6wj0bS05IVS3g=") (units [0x40, 0x42]) := by unfold gives; decide +kernel

/-- V-E2E-7, both policies. -/
theorem test_decrypt_policies :
    gives keyedTwelve 0x00000061#32 (text "AAECAwQFBgcICQoLDA0ODxAREhMUFRYXGBkaGxwdHh8=")
      (units [0x0252, 0x0020, 0x071E, 0x0035, 0x0009, 0x000C, 0x000E]) ∧
    fails (failClosed keyedTwelve) 0x00000061#32 (text "AAECAwQFBgcICQoLDA0ODxAREhMUFRYXGBkaGxwdHh8=") 0x04#8 := by
  unfold gives fails; decide +kernel

end Sys2Proof.Tests
end

