-- ==== Sys2Proof/Tests/Witnesses.lean ====
section
/-! SUPPORT. For every claim with hypotheses, a concrete state and operands that meet all of them together, clause by
clause and at the boundaries where clauses meet. Each theorem is named after its claim. -/

namespace Sys2Proof.Tests

open Sys2Proof.Machine Sys2Proof.Claims

/-- `s` with payload `p` taken. -/
def withInput (s : State) (p : Payload) : State := { s with input := p }

/-- `s` to which the host sends one move. -/
def sent (s : State) (m : HostMove) : State := { s with host := [m] }

/-- Reset with MAX_PAYLOAD = `n`. -/
def bounded (n : Nat) : State := { State.reset with build := { State.reset.build with maxPayload := some n } }

/-- Reset with `EMPTY_KEY_POLICY = Reject`. -/
def rejecting : State := { State.reset with build := { State.reset.build with emptyKey := .reject } }

/-- The fields of `KEYSET r, 2^l`. -/
def fields (r : BitVec 16) (l : BitVec 3) : KFields := { wsl := l, dw := false, dr := false, rounds := r }

/-- The code units of a string. -/
def chars (s : String) : List CodeUnit := s.toList.map fun c => BitVec.ofNat 16 c.toNat

/-! ## Encoding -/

theorem witness_DecodeEncodeRoundTrip :
    (Instr.keyset (fields 65535 7)).wellFormed = true ∧
    (Instr.keysetb { wsl := 0, dw := true, dr := true, rounds := 0 }).wellFormed = true ∧
    Instr.decrypt.wellFormed = true := by decide

theorem witness_EncodeDecodeRoundTrip : ∃ i, decode 0xFFFF0702#32 = .ok i := ⟨_, rfl⟩

/-- One word for each of (a) to (e), and the legal words beside them. -/
theorem witness_IllegalWordsRaiseIllegalCommand :
    IllegalWord 0x00000000#32 ∧ IllegalWord 0x00000062#32 ∧ IllegalWord 0x80000061#32 ∧ IllegalWord 0x00002001#32 ∧
    IllegalWord 0x00000902#32 ∧ IllegalWord 0x00011001#32 ∧ ¬ IllegalWord 0x00000061#32 ∧
    ¬ IllegalWord 0x00001001#32 ∧ ¬ IllegalWord 0xFFFF0702#32 ∧ ¬ IllegalWord 0xFFFF0802#32 ∧
    (sent State.reset (.command 0x00000062#32 (bytes []))).host = .command 0x00000062#32 (bytes []) :: [] :=
  ⟨by decide, by decide, by decide, by decide, by decide, by decide, by decide, by decide, by decide, by decide, rfl⟩

/-! ## The step -/

theorem witness_StepRunsDecodedCommand :
    (sent State.reset (.command 0x00000061#32 (text "AAAA"))).host = .command 0x00000061#32 (text "AAAA") :: [] ∧
    decode 0x00000061#32 = .ok .decrypt := ⟨rfl, rfl⟩

theorem witness_ResetRestoresRegisters :
    (∃ m rest, (sent keyedOne .reset).host = m :: rest ∧ (m = .reset ∨ ∃ w p, m = .interrupted w p)) ∧
    (∃ m rest, (sent keyedOne (.interrupted 0x60#32 (text "A"))).host = m :: rest ∧
      (m = .reset ∨ ∃ w p, m = .interrupted w p)) :=
  ⟨⟨_, _, rfl, .inl rfl⟩, ⟨_, _, rfl, .inr ⟨_, _, rfl⟩⟩⟩

theorem witness_EveryMoveCompletes : keyedOne.host = [] := rfl

theorem witness_RunAnswersEveryCommand :
    ∃ (cs : List (BitVec 32 × Payload)) (s : State), cs.length = 2 ∧
      s.host = cs.map (fun c => HostMove.command c.1 c.2) :=
  ⟨[(0x00010601#32, text "k"), (0#32, bytes [])],
   { State.reset with host := [.command 0x00010601#32 (text "k"), .command 0#32 (bytes [])] }, rfl, rfl⟩

/-! ## Invariants and whole-machine rules -/

theorem witness_RegisterInvariantKept :
    RegistersConsistent keyedOne ∧ (∃ t, step keyedOne = .next t) ∧
    State.reset.keyValid = 0#1 ∧ keyedCommand .decrypt = true := ⟨by decide, ⟨_, rfl⟩, rfl, rfl⟩

theorem witness_SafeStatesStaySafe :
    Safe { State.reset with
      status := 0x06#8, responses := [{ st := 0x06#8, out := none }], host := [.command 0x61#32 (bytes [])] } ∧
    (∃ t, step (sent State.reset (.command 0x61#32 (bytes []))) = .next t) := ⟨by decide, ⟨_, rfl⟩⟩

theorem witness_EveryCommandAnswersOnce :
    ∃ w p rest, (sent State.reset (.command 0x61#32 (bytes []))).host = .command w p :: rest := ⟨_, _, _, rfl⟩

theorem witness_BuildParametersNeverChange : ∃ t, step (sent (bounded 3) .reset) = .next t := ⟨_, rfl⟩

/-- A key setup that succeeds and one that fails, and a command that is no key setup. -/
theorem witness_OnlyKeySetupWritesTheTable :
    (∃ t, exec (.keyset (fields 1 6)) (withInput State.reset (text "")) = .next t ∧ t.status = 0x00#8) ∧
    (∃ t, exec (.keysetb (fields 0 6)) (withInput State.reset (bytes [])) = .next t ∧ t.status ≠ 0x00#8) ∧
    (∃ t, keySetupCommand .encrypt = false ∧ exec .encrypt (withInput keyedTwelve (text "")) = .next t) :=
  ⟨⟨_, rfl, by decide +kernel⟩, ⟨_, rfl, by decide +kernel⟩, ⟨_, rfl, rfl⟩⟩

theorem witness_KeyValidSetByKeySetupClearedByReset :
    (∃ t, step (sent keyedOne .reset) = .next t ∧ keyedOne.keyValid = 1#1 ∧ t.keyValid = 0#1) ∧
    (∃ t, step (sent State.reset (.command 0x00010601#32 (text "k"))) = .next t ∧ State.reset.keyValid = 0#1 ∧
      t.keyValid = 1#1) := ⟨⟨_, rfl, rfl, rfl⟩, ⟨_, rfl, rfl, by decide +kernel⟩⟩

theorem witness_ErrorsArePrecise :
    ∃ t, step (sent keyedOne (.command 0x00000501#32 (text "k"))) = .next t ∧ t.status ≠ 0x00#8 :=
  ⟨_, rfl, by decide +kernel⟩

theorem witness_OneStatusByPriority :
    ∃ w p rest, (sent keyedOne (.command 0x00000501#32 (text "k"))).host = .command w p :: rest :=
  ⟨_, _, _, rfl⟩

/-- Each way a payload is malformed, at the boundaries of the length rules. -/
theorem witness_MalformedPayloadComesFirst :
    Malformed (.keyset (fields 12 6)) (withInput State.reset (bytes [0x6b])) ∧
    Malformed .encblk (withInput State.reset (bytes (List.replicate 17 0))) ∧
    ¬ Malformed .encblk (withInput State.reset (bytes (List.replicate 16 0))) ∧
    Malformed .cbcenc (withInput State.reset (bytes [0])) ∧ Malformed .wadd (withInput State.reset (words [1])) ∧
    Malformed .cfgrd (withInput State.reset (bytes [0])) ∧ Malformed .pad (withInput (bounded 1) (bytes [0, 0])) ∧
    ¬ Malformed .pad (withInput (bounded 1) (bytes [0])) := by decide

/-- Each of the three clauses. -/
theorem witness_SideEffectsOfEveryCommand :
    (∃ t, exec (.keyset (fields 1 6)) (withInput State.reset (text "k")) = .next t) ∧
    (∃ t, exec .pad (withInput State.reset (bytes [])) = .next t) ∧
    (∃ t, exec .cbcenc (withInput keyedTwelve (bytes [0])) = .next t ∧ t.status ≠ 0x00#8) ∧
    (∃ t, exec .cbcenc (withInput keyedTwelve (bytes [])) = .next t ∧ t.status = 0x00#8) :=
  ⟨⟨_, rfl⟩, ⟨_, rfl⟩, ⟨_, rfl, by decide +kernel⟩, ⟨_, rfl, by decide +kernel⟩⟩

theorem witness_RepeatedCommandGivesTheSame :
    drawingCommand (.keyset (fields 1 6)) = false ∧
    ∃ t, exec (.keyset (fields 1 6)) (withInput State.reset (text "k")) = .next t := ⟨rfl, ⟨_, rfl⟩⟩

/-- Two states that differ in STATUS, the responses and the host's later moves. -/
theorem witness_OnlyTableRegistersCarryOver :
    SameToCommands (withInput keyedTwelve (text "A"))
      { withInput keyedTwelve (text "A") with
        status := 0x03#8, responses := [{ st := 0x03#8, out := none }], host := [.reset] } ∧
    ∃ s', exec .encrypt (withInput keyedTwelve (text "A")) = .next s' :=
  ⟨⟨rfl, rfl, rfl, rfl, rfl, rfl, rfl, rfl⟩, ⟨_, rfl⟩⟩

theorem witness_UnkeyedCommandsReadNoRegister :
    keyedCommand .unpad = false ∧ keySetupCommand .unpad = false ∧ Instr.unpad ≠ .cfgrd ∧
    (withInput State.reset (bytes [1])).input = (withInput keyedOne (bytes [1])).input ∧
    State.reset.build = keyedOne.build ∧ ∃ s', exec .unpad (withInput State.reset (bytes [1])) = .next s' :=
  ⟨rfl, rfl, by decide, rfl, rfl, ⟨_, rfl⟩⟩

theorem witness_OutputIsAsDeclared :
    ∃ t, exec .b2w (withInput State.reset (bytes [7])) = .next t ∧
      t.responses = { st := 0x00#8, out := some (words [7]) } :: State.reset.responses :=
  ⟨_, rfl, by decide +kernel⟩

/-! ## Word arithmetic and the converter -/

theorem witness_WordArithmeticRules :
    ∃ a b : Word, (withInput (bounded 2) (words [0, 1])).input = .words [a, b] ∧
      Admits (withInput (bounded 2) (words [0, 1])) 2 := ⟨_, _, rfl, by decide⟩

/-- An amount of 0, of 63, of 64 and of 2^64 - 1. -/
theorem witness_RotationRules :
    ∀ n ∈ [0, 63, 64, 2 ^ 64 - 1], ∃ x a : Word, (withInput (bounded 2) (words [1, n])).input = .words [x, a] ∧
      Admits (withInput (bounded 2) (words [1, n])) 2 := fun _ _ => ⟨_, _, rfl, rfl⟩

theorem witness_BytesToWordsRule :
    ∃ bs, (withInput (bounded 9) (bytes (List.range 9))).input = .bytes bs ∧
      Admits (withInput (bounded 9) (bytes (List.range 9))) bs.length := ⟨_, rfl, by decide⟩

theorem witness_WordsToBytesRule :
    ∃ ws, (withInput State.reset (words [1, 2, 3])).input = .words ws ∧
      Admits (withInput State.reset (words [1, 2, 3])) ws.length := ⟨_, rfl, by decide⟩

theorem witness_ConverterRoundTrip :
    (List.replicate 16 0x41#8).length % 8 = 0 ∧ ([] : List Byte).length % 8 = 0 := by decide

/-! ## Key schedule -/

/-- The four outcomes: rounds 0 and 256; w = 32 with legal rounds; an empty key refused; and success at r = 1 and
r = 255, with an empty key accepted and with a key under either policy. -/
theorem witness_KeysetRule :
    (withInput rejecting (text "")).input = .text [] ∧ Admits (withInput rejecting (text "")) 0 ∧
    (fields 12 6).wellFormed = true ∧
    effectiveRounds (fields 0 6) < 1 ∧ 255 < effectiveRounds (fields 256 6) ∧
    (1 ≤ effectiveRounds (fields 1 5) ∧ effectiveRounds (fields 1 5) ≤ 255 ∧ effectiveWordSize (fields 1 5) ≠ 64) ∧
    (1 ≤ effectiveRounds (fields 255 6) ∧ effectiveRounds (fields 255 6) ≤ 255 ∧
      effectiveWordSize (fields 255 6) = 64) ∧
    utf8Encode [] = [] ∧ rejecting.build.emptyKey = .reject ∧ State.reset.build.emptyKey = .accept ∧
    utf8Encode [0x6B#16] ≠ [] := by decide

/-- The same conditions with a byte key, and the default word size and rounds. -/
theorem witness_KeysetbRule :
    (withInput State.reset (bytes [1])).input = .bytes [1#8] ∧ Admits (withInput State.reset (bytes [1])) 1 ∧
    effectiveRounds { wsl := 0, dw := true, dr := true, rounds := 0 } = 12 ∧
    effectiveWordSize { wsl := 0, dw := true, dr := true, rounds := 0 } = 64 ∧
    ([1#8] : List Byte) ≠ [] := by decide

theorem witness_TableLengthLaw : 1 ≤ 1 ∧ 255 ≤ 255 := by decide

/-- A text of one unit whose key is two bytes, both within MAX_PAYLOAD. -/
theorem witness_TextKeyEqualsItsBytes :
    ∃ us, (withInput (bounded 2) (units [0xE9])).input = .text us ∧
      Admits (withInput (bounded 2) (units [0xE9])) us.length ∧
      Admits (withInput (bounded 2) (units [0xE9])) (utf8Encode us).length := ⟨_, rfl, by decide, by decide⟩

theorem witness_CfgrdRule :
    (withInput State.reset (bytes [])).input = .bytes [] ∧ (withInput keyedOne (bytes [])).input = .bytes [] :=
  ⟨rfl, rfl⟩

/-- A keyed command with a legal payload, keyed and not keyed. -/
theorem witness_SkreadRule :
    (withInput keyedOne (bytes [])).input = .bytes [] ∧ (withInput keyedOne (bytes [])).keyValid = 1#1 ∧
    RegistersConsistent (withInput keyedOne (bytes [])) ∧
    ¬ Malformed .skread (withInput State.reset (bytes [])) ∧ (withInput State.reset (bytes [])).keyValid = 0#1 := by
  decide

/-! ## Block transform -/

/-- A block of 16 bytes under the tightest MAX_PAYLOAD, and an empty one. -/
theorem witness_EncblkRule :
    (∃ bs, (withInput keyedTwelve (bytes (List.range 16))).input = .bytes bs ∧ bs.length ≤ 16 ∧
      Admits (withInput keyedTwelve (bytes (List.range 16))) bs.length) ∧
    keyedTwelve.keyValid = 1#1 ∧ RegistersConsistent keyedTwelve ∧
    ¬ Malformed .encblk (withInput State.reset (bytes [])) := ⟨⟨_, rfl, by decide, by decide⟩, by decide⟩

theorem witness_DecblkRule :
    (∃ bs, (withInput keyedOne (bytes [])).input = .bytes bs ∧ bs.length ≤ 16 ∧
      Admits (withInput keyedOne (bytes [])) bs.length) ∧
    keyedOne.keyValid = 1#1 ∧ RegistersConsistent keyedOne ∧
    ¬ Malformed .decblk (withInput State.reset (bytes [])) := ⟨⟨_, rfl, by decide, by decide⟩, by decide⟩

theorem witness_BlockTransformsAreInverse :
    keyedOne.table.length = 2 * (1 + 1) ∧ (List.replicate 16 0#8 : List Byte).length = 16 := by decide

/-! ## Padding -/

theorem witness_PadRule :
    ∃ d, (withInput (bounded 16) (bytes (List.range 16))).input = .bytes d ∧
      Admits (withInput (bounded 16) (bytes (List.range 16))) d.length := ⟨_, rfl, by decide⟩

/-- The last byte of a padded string. -/
theorem paddedAs_last {d core : List Byte} (h : PaddedAs d core) :
    ∃ n, 1 ≤ n ∧ n ≤ 16 ∧ n ≤ d.length ∧ d.getLast? = some (BitVec.ofNat 8 n) := by
  obtain ⟨n, h1, h16, rfl⟩ := h
  obtain ⟨m, rfl⟩ : ∃ m, n = m + 1 := ⟨n - 1, by omega⟩
  refine ⟨m + 1, h1, h16, by simp, ?_⟩
  rw [List.replicate_succ', ← List.append_assoc, List.getLast?_concat]

/-- Valid padding of 1 and of 16 bytes; no valid padding: an empty string, a last byte of 0, of 17, and one that
asks for more bytes than there are; both policies. -/
theorem witness_UnpadRule :
    PaddedAs [0#8, 1#8] [0#8] ∧ PaddedAs (List.replicate 16 16#8) [] ∧
    (∀ core, ¬ PaddedAs [] core) ∧ (∀ core, ¬ PaddedAs [5#8, 0#8] core) ∧ (∀ core, ¬ PaddedAs [17#8] core) ∧
    (∀ core, ¬ PaddedAs [2#8] core) ∧
    State.reset.build.unpad = .failOpen ∧ (failClosed State.reset).build.unpad = .failClosed := by
  refine ⟨⟨1, by decide, by decide, rfl⟩, ⟨16, by decide, by decide, rfl⟩, ?_, ?_, ?_, ?_, rfl, rfl⟩ <;>
  · intro core h
    obtain ⟨n, h1, h16, hl, hb⟩ := paddedAs_last h
    simp only [List.length_cons, List.length_nil] at hl
    interval_cases n <;> revert hb hl <;> decide

/-! ## CBC -/

/-- Two blocks and none, with a draw ready and with none. -/
theorem witness_CbcencRule :
    (∃ p, (withInput keyedTwelve (bytes (List.range 32))).input = .bytes p ∧ p.length % 16 = 0 ∧
      Admits (withInput keyedTwelve (bytes (List.range 32))) p.length) ∧
    (∃ p, (withInput keyedOne (bytes [])).input = .bytes p ∧ p.length % 16 = 0) ∧
    keyedTwelve.keyValid = 1#1 ∧ keyedTwelve.rng ≠ [] ∧ keyedOne.keyValid = 1#1 ∧ keyedOne.rng = [] ∧
    ¬ Malformed .cbcenc (withInput State.reset (bytes [])) :=
  ⟨⟨_, rfl, by decide, by decide⟩, ⟨_, rfl, by decide⟩, by decide⟩

/-- The lengths where the clauses meet. -/
theorem witness_CbcdecRule :
    (∃ d, (withInput keyedOne (bytes (List.range 32))).input = .bytes d ∧
      Admits (withInput keyedOne (bytes (List.range 32))) d.length ∧ ¬ BadCiphertextLength d.length) ∧
    keyedOne.keyValid = 1#1 ∧ BadCiphertextLength 0 ∧ BadCiphertextLength 16 ∧ BadCiphertextLength 31 ∧
    BadCiphertextLength 40 ∧ ¬ BadCiphertextLength 48 ∧
    ¬ Malformed .cbcdec (withInput State.reset (bytes [])) :=
  ⟨⟨_, rfl, by decide, by decide⟩, by decide⟩

theorem witness_CbcDecryptUndoesEncrypt :
    (List.replicate 16 0#8 : List Byte).length % 16 = 0 ∧ 16 ≤ (List.replicate 16 0#8 : List Byte).length := by
  decide

/-! ## Codecs -/

/-- The first and last surrogates of a pair, and a lone one before another unit and at the end. -/
theorem witness_Utf8EncodeRule :
    SurrogatePair 0xD800#16 0xDFFF#16 ∧ SurrogatePair 0xDBFF#16 0xDC00#16 ∧
    (∀ y, ([0x41#16] : List CodeUnit).head? = some y → ¬ SurrogatePair 0xD83D#16 y) ∧
    (∀ y, ([] : List CodeUnit).head? = some y → ¬ SurrogatePair 0xDC00#16 y) ∧
    (∃ us, (withInput State.reset (units [0xD83D])).input = .text us ∧
      Admits (withInput State.reset (units [0xD83D])) us.length) :=
  ⟨by decide, by decide, by simp, by simp, ⟨_, rfl, by decide⟩⟩

/-- Every class of lead byte at both its ends, with too few bytes after it and with enough, and 4-byte values on both
sides of 0x10000 and of 0x10FFFF. -/
theorem witness_Utf8DecodeRule :
    (∃ bs, (withInput State.reset (bytes [0xC3])).input = .bytes bs ∧
      Admits (withInput State.reset (bytes [0xC3])) bs.length) ∧
    (0x7F#8 : Byte).toNat ≤ 0x7F ∧ 0x80 ≤ (0x80#8 : Byte).toNat ∧ (0xBF#8 : Byte).toNat ≤ 0xBF ∧
    0xC0 ≤ (0xC0#8 : Byte).toNat ∧ (0xDF#8 : Byte).toNat ≤ 0xDF ∧ ([] : List Byte).length < 1 ∧
    0xE0 ≤ (0xE0#8 : Byte).toNat ∧ (0xEF#8 : Byte).toNat ≤ 0xEF ∧ ([0x80#8] : List Byte).length < 2 ∧
    0xF0 ≤ (0xF0#8 : Byte).toNat ∧ (0xF7#8 : Byte).toNat ≤ 0xF7 ∧ ([0x80#8, 0x80#8] : List Byte).length < 3 ∧
    0xF8 ≤ (0xF8#8 : Byte).toNat ∧
    (0xF0#8 : Byte).toNat % 2 ^ 3 * 2 ^ 18 + (0x8F#8 : Byte).toNat % 2 ^ 6 * 2 ^ 12 < 0x10000 ∧
    0x10000 ≤ (0xF0#8 : Byte).toNat % 2 ^ 3 * 2 ^ 18 + (0x90#8 : Byte).toNat % 2 ^ 6 * 2 ^ 12 ∧
    0x10FFFF < (0xF4#8 : Byte).toNat % 2 ^ 3 * 2 ^ 18 + (0x90#8 : Byte).toNat % 2 ^ 6 * 2 ^ 12 :=
  ⟨⟨_, rfl, by decide⟩, by decide⟩

theorem witness_Base64EncodeRule :
    ∃ d, (withInput (bounded 4) (bytes (List.range 4))).input = .bytes d ∧
      Admits (withInput (bounded 4) (bytes (List.range 4))) d.length := ⟨_, rfl, by decide⟩

/-- `BadBase64` fails where each of its four conditions does; the second is checked character by character. -/
theorem not_badBase64 {us : List CodeUnit} (h4 : us.length % 4 = 0)
    (hb : (us.all fun c => decide (c.toNat ∈ alphabet) || decide (c.toNat = 0x3D)) = true)
    (hc : ¬ ∃ k < us.length, us[k]? = some 0x3D#16 ∧ k + 1 ≠ us.length ∧
      ¬ (k + 2 = us.length ∧ us[k + 1]? = some 0x3D#16))
    (hd : ¬ ∃ k < us.length, us[k]? = some 0x3D#16 ∧ k % 4 < 2) : ¬ BadBase64 us := by
  rintro (h | ⟨c, hm, h1, h2⟩ | h | h)
  · exact h h4
  · simpa [h1, h2] using List.all_eq_true.1 hb c hm
  · exact hc h
  · exact hd h

/-- A bad text for each of (a) to (d), and good ones with no, one and two pad characters. -/
theorem witness_Base64DecodeRule :
    (withInput State.reset (text "Zg==")).input = .text (chars "Zg==") ∧
    Admits (withInput State.reset (text "Zg==")) 4 ∧
    BadBase64 (chars "Zg") ∧ BadBase64 (chars "Zm-v") ∧ BadBase64 (chars "Zm=v") ∧ BadBase64 (chars "Z===") ∧
    ¬ BadBase64 (chars "Zg==") ∧ ¬ BadBase64 (chars "Zm8=") ∧ ¬ BadBase64 (chars "Zm9v") ∧ ¬ BadBase64 [] :=
  ⟨rfl, rfl, .inl (by decide), .inr (.inl ⟨0x2D#16, by decide, by decide, by decide⟩),
   .inr (.inr (.inl ⟨2, by decide, by decide, by decide, by decide⟩)),
   .inr (.inr (.inr ⟨1, by decide, by decide, by decide⟩)),
   not_badBase64 (by decide) (by decide) (by decide) (by decide),
   not_badBase64 (by decide) (by decide) (by decide) (by decide),
   not_badBase64 (by decide) (by decide) (by decide) (by decide),
   not_badBase64 (by decide) (by decide) (by decide) (by decide)⟩

/-- Unused bits that are zero, with two pad characters and with none. -/
theorem witness_Base64RoundTrip :
    (b64Decode [0x5A#16, 0x67#16, 0x3D#16, 0x3D#16] = some [0x66#8] ∧
      UnusedBitsZero [0x5A#16, 0x67#16, 0x3D#16, 0x3D#16]) ∧
    (b64Decode [] = some [] ∧ UnusedBitsZero []) := by
  refine ⟨⟨by decide, ?_, ?_⟩, by decide, ?_, ?_⟩
  · intro init c0 c1 h
    obtain rfl : init = [] := by
      have := congrArg List.length h
      simpa using this
    simp only [List.nil_append, List.cons.injEq] at h
    obtain ⟨-, rfl, -⟩ := h
    decide
  · intro init c0 c1 c2 h hc
    obtain rfl : init = [] := by
      have := congrArg List.length h
      simpa using this
    simp only [List.nil_append, List.cons.injEq] at h
    exact absurd h.2.2.1.symm hc
  · intro init c0 c1 h; simp at h
  · intro init c0 c1 c2 h; simp at h

theorem witness_HexofRule :
    ∃ d, (withInput State.reset (bytes [0, 255])).input = .bytes d ∧
      Admits (withInput State.reset (bytes [0, 255])) d.length ∧ d[1]? = some 255#8 := ⟨_, rfl, by decide, rfl⟩

/-! ## ENCRYPT and DECRYPT -/

theorem witness_EncryptRule :
    ∃ us, (withInput keyedTwelve (text "AB")).input = .text us ∧
      Admits (withInput keyedTwelve (text "AB")) us.length ∧ keyedTwelve.keyValid = 1#1 ∧
      ¬ Malformed .encrypt (withInput State.reset (text "AB")) := ⟨_, rfl, by decide, rfl, by decide⟩

/-- A text that is not Base64, one of a bad length, one that decrypts to valid padding and one that does not, the
last under both policies. -/
theorem witness_DecryptRule :
    b64Decode [0x41#16] = none ∧
    (∃ d, b64Decode [0x41#16, 0x41#16, 0x41#16, 0x41#16] = some d ∧ BadCiphertextLength d.length) ∧
    (∃ p, cbcDecrypt tableTwelve 12 ((List.range 16 ++
        [0x9d, 0x81, 0x6b, 0xb8, 0xd6, 0x7c, 0xee, 0xb0, 0x8f, 0x46, 0xd2, 0xd3, 0x92, 0x15, 0x4b, 0x78]).map
        (BitVec.ofNat 8)) = some p ∧ padValid p = true) ∧
    (∃ p, cbcDecrypt tableTwelve 12 ((List.range 32).map (BitVec.ofNat 8)) = some p ∧ padValid p = false) ∧
    keyedTwelve.keyValid = 1#1 ∧ keyedTwelve.build.unpad = .failOpen ∧
    (failClosed keyedTwelve).build.unpad = .failClosed ∧
    ¬ Malformed .decrypt (withInput State.reset (text "AAAA")) :=
  ⟨by decide, ⟨_, rfl, by decide⟩, ⟨_, rfl, by decide +kernel⟩, ⟨_, rfl, by decide +kernel⟩, by decide⟩

/-- The state of ENCRYPT, and a later state under another policy with a token within MAX_PAYLOAD and beyond it. -/
theorem witness_EncryptDecryptRoundTrip :
    (∃ us, (withInput keyedTwelve (text "AB")).input = .text us ∧
      Admits (withInput keyedTwelve (text "AB")) us.length) ∧ keyedTwelve.keyValid = 1#1 ∧
    (failClosed keyedTwelve).keyValid = 1#1 ∧ (failClosed keyedTwelve).cfgRounds = keyedTwelve.cfgRounds ∧
    (failClosed keyedTwelve).table = keyedTwelve.table ∧ Admits (bounded 44) 44 ∧ ¬ Admits (bounded 43) 44 :=
  ⟨⟨_, rfl, by decide⟩, rfl, rfl, rfl, rfl, by decide, by decide⟩

end Sys2Proof.Tests
end

