-- ==== Sys2Proof/Proofs/KeyScheduleLength.lean ====
section
/-! PROOF. The mixing loop works on the table in place, so its length is the one the initial table starts with
(42_key_schedule.md R140 to R142). -/

namespace Sys2Proof.Machine

@[simp] theorem mixStart_s (T : Nat) (l : List Word) : (mixStart T l).s = initTable T p64 := rfl

/-- Invariant of the loop: an iteration writes entries of S and never adds or drops one. -/
@[simp] theorem length_mixLoop_s (store : KsStore) (n : Nat) (m : Mix) :
    (mixLoop store n m).s.length = m.s.length := by
  induction n with
  | zero => rfl
  | succ n ih =>
    calc (mixLoop store (n + 1) m).s.length
        = (mixKey store (mixTable store (mixLoop store n m))).s.length := by rw [mixLoop_succ]
      _ = (mixLoop store n m).s.length := by rw [mixKey_s, length_mixTable_s]
      _ = m.s.length := ih

@[simp] theorem length_keySchedule (store : KsStore) (key : List Byte) (r : Nat) :
    (keySchedule store key r).length = tableLength r := by
  simp [keySchedule]

/-- Settles O35: the loop keeps the length of the initial table, and the bounds are those of 2(r+1). -/
theorem tableLengthLaw : Obligations.TableLengthLaw := by
  intro store key r
  have hlen : (keySchedule store key r).length = 2 * (r + 1) := length_keySchedule store key r
  exact ⟨hlen, fun hmin hmax => by omega⟩

end Sys2Proof.Machine
end

section
/-! PROOF. Everything one step can do, said once (`step_cases`), and what every ending of a command keeps: the
whole-machine rules and invariants of 10_state.md follow from the two by cases. -/

namespace Sys2Proof.Laws

open Sys2Proof.Machine Sys2Proof.Claims

/-! ## The step, move by move -/

variable {s t : State} {i : Instr}

theorem step_of_nil (h : s.host = []) : step s = .next s := by simp [step, h]

theorem step_of_reset {m : HostMove} {rest : List HostMove} (h : s.host = m :: rest)
    (hm : m = .reset ∨ ∃ w p, m = .interrupted w p) : step s = .next (resetEngine rest s) := by
  rcases hm with rfl | ⟨w, p, rfl⟩ <;> simp [step, h]

theorem step_of_illegal {w : BitVec 32} {p : Payload} {rest : List HostMove} {d : DecodeError}
    (h : s.host = .command w p :: rest) (hd : decode w = .error d) :
    step s = .next (rejected (taken s p rest) (statusCode .illegalCommand)) := by
  simp [step, h, hd, raise_eq_rejected, acceptCommand_eq_taken]

theorem step_of_command {w : BitVec 32} {p : Payload} {rest : List HostMove}
    (h : s.host = .command w p :: rest) (hd : decode w = .ok i) : step s = exec i (taken s p rest) := by
  simp [step, h, hd, acceptCommand_eq_taken]

/-- The four ways a step ends. -/
inductive StepEnding (s : State) : State → Prop where
  /-- With nothing sent. -/
  | idle (h : s.host = []) : StepEnding s s
  /-- In the reset state, between commands or in the middle of one. -/
  | reset {m : HostMove} {rest : List HostMove} (h : s.host = m :: rest)
      (hm : m = .reset ∨ ∃ w p, m = .interrupted w p) : StepEnding s (resetEngine rest s)
  /-- With a word that is no command. -/
  | illegal {w : BitVec 32} {p : Payload} {rest : List HostMove} (h : s.host = .command w p :: rest) :
      StepEnding s (rejected (taken s p rest) (statusCode .illegalCommand))
  /-- As the decoded command ends. -/
  | command {w : BitVec 32} {p : Payload} {rest : List HostMove} {i : Instr} {t : State}
      (h : s.host = .command w p :: rest) (hd : decode w = .ok i) (he : Ending i (taken s p rest) t) :
      StepEnding s t

/-- Every step ends, in one of the four ways. -/
theorem step_cases (s : State) : ∃ t, step s = .next t ∧ StepEnding s t := by
  match h : s.host with
  | [] => exact ⟨s, step_of_nil h, .idle h⟩
  | .reset :: rest => exact ⟨_, step_of_reset h (.inl rfl), .reset h (.inl rfl)⟩
  | .interrupted w p :: rest =>
    exact ⟨_, step_of_reset h (.inr ⟨w, p, rfl⟩), .reset h (.inr ⟨w, p, rfl⟩)⟩
  | .command w p :: rest =>
    cases hd : decode w with
    | error d => exact ⟨_, step_of_illegal h hd, .illegal h⟩
    | ok i =>
      obtain ⟨t, ht, he⟩ := exec_cases i (taken s p rest)
      exact ⟨t, (step_of_command h hd).trans ht, .command h hd he⟩

/-- The inversion form of `step_cases`. -/
theorem stepEnding_of_step (h : step s = .next t) : StepEnding s t := by
  obtain ⟨t', h', he⟩ := step_cases s
  rw [h] at h'
  cases h'
  exact he

/-! ## What the commands of a column have in common -/

theorem keySetupCommand_of_eq {k : KFields} (hi : i = .keyset k ∨ i = .keysetb k) :
    keySetupCommand i = true := by
  rcases hi with rfl | rfl <;> rfl

theorem keySetup_not_drawing (hk : keySetupCommand i = true) : drawingCommand i = false :=
  match i, hk with
  | .keyset _, _ => rfl
  | .keysetb _, _ => rfl

/-! ## What every ending of a command keeps -/

theorem Ending.build_eq (he : Ending i s t) : t.build = s.build := by cases he <;> rfl

theorem responseLegal_error (e : ErrorKind) : ResponseLegal { st := statusCode e, out := none } :=
  ⟨statusCode_le_8 e, by simp [statusCode_ne_ok]⟩

theorem responseLegal_ok (v : Payload) : ResponseLegal { st := 0x00#8, out := some v } := by
  simp [ResponseLegal]

/-- `t` is `s` with one more response, a legal one, and its code in STATUS. -/
def AnsweredOnce (s t : State) : Prop :=
  ∃ r, t.responses = r :: s.responses ∧ t.status = r.st ∧ ResponseLegal r

theorem answeredOnce_rejected (s : State) (e : ErrorKind) : AnsweredOnce s (rejected s (statusCode e)) :=
  ⟨_, rfl, rfl, responseLegal_error e⟩

theorem Ending.answeredOnce (he : Ending i s t) : AnsweredOnce s t := by
  cases he with
  | error e => exact answeredOnce_rejected s e
  | output v | drawn v | keyed => exact ⟨_, rfl, rfl, responseLegal_ok _⟩

/-- Only a new table changes the table registers (10_state.md R38). -/
theorem Ending.tableRegisters_eq (he : Ending i s t) (hk : keySetupCommand i = false) :
    t.keyValid = s.keyValid ∧ t.cfgRounds = s.cfgRounds ∧ t.cfgWsize = s.cfgWsize ∧ t.table = s.table := by
  cases he with
  | error | output | drawn => exact ⟨rfl, rfl, rfl, rfl⟩
  | keyed k key hi => simp [keySetupCommand_of_eq hi] at hk

/-- A key setup ends with an error or with the table of the rounds it asked for. -/
theorem Ending.keySetup_cases {k : KFields} (he : Ending i s t) (hi : i = .keyset k ∨ i = .keysetb k) :
    (∃ e, t = rejected s (statusCode e)) ∨
    ∃ key, effectiveRounds k ≤ 255 ∧
      t = answered (installTable (effectiveRounds k)
        (keySchedule s.build.ksStore key (effectiveRounds k)) s) (.bytes []) := by
  cases he with
  | error e => exact .inl ⟨e, rfl⟩
  | output v hk | drawn v hk => simp [keySetupCommand_of_eq hi] at hk
  | keyed k' key hi' hr hr' hw =>
    obtain rfl : k = k' := by rcases hi with rfl | rfl <;> simpa using hi'
    exact .inr ⟨key, hr', rfl⟩

/-- KEYVALID stays, or a key setup has set it and succeeded. -/
theorem Ending.keyValid_cases (he : Ending i s t) :
    t.keyValid = s.keyValid ∨ keySetupCommand i = true ∧ t.keyValid = 1#1 ∧ t.status = 0x00#8 := by
  cases he with
  | error | output | drawn => exact .inl rfl
  | keyed k key hi => exact .inr ⟨keySetupCommand_of_eq hi, rfl, rfl⟩

/-- The three ways KEYVALID can go in a step (10_state.md R34). -/
theorem StepEnding.keyValid_cases (h : StepEnding s t) :
    t.keyValid = s.keyValid ∨
    (∃ m rest, s.host = m :: rest ∧ (m = .reset ∨ ∃ w p, m = .interrupted w p)) ∧ t.keyValid = 0#1 ∨
    (∃ w p rest i, s.host = .command w p :: rest ∧ decode w = .ok i ∧ keySetupCommand i = true ∧
      t.status = 0x00#8) ∧ t.keyValid = 1#1 := by
  cases h with
  | idle | illegal => exact .inl rfl
  | reset hhost hm => exact .inr (.inl ⟨⟨_, _, hhost, hm⟩, rfl⟩)
  | command hhost hd he =>
    obtain hsame | ⟨hk, h1, hok⟩ := he.keyValid_cases
    · exact .inl hsame
    · exact .inr (.inr ⟨⟨_, _, _, _, hhost, hd, hk, hok⟩, h1⟩)

/-! ## The register invariant (10_state.md R39) -/

/-- What `installTable` writes meets the invariant, whatever was there before. -/
theorem registersConsistent_installTable (store : KsStore) (key : List Byte) (s : State) {r : Nat}
    (hr : 1 ≤ r) (hr' : r ≤ 255) : RegistersConsistent (installTable r (keySchedule store key r) s) := by
  have hmod : r % 256 = r := by omega
  simp [RegistersConsistent, hmod, tableLength, hr, hr']

theorem registersConsistent_resetEngine (rest : List HostMove) (s : State) :
    RegistersConsistent (resetEngine rest s) := by
  simp [RegistersConsistent]

theorem Ending.registersConsistent (he : Ending i s t) (hs : RegistersConsistent s) :
    RegistersConsistent t := by
  cases he with
  | error | output | drawn => exact hs
  | keyed k key hi hr hr' hw => exact registersConsistent_installTable _ key s hr hr'

theorem registersConsistent_step (hs : RegistersConsistent s) (h : step s = .next t) :
    RegistersConsistent t := by
  cases stepEnding_of_step h with
  | idle | illegal => exact hs
  | reset => exact registersConsistent_resetEngine _ s
  | command _ _ he => exact he.registersConsistent hs

/-! ## Responses (10_state.md R33) -/

theorem responsesConsistent_resetEngine (rest : List HostMove) (s : State) :
    ResponsesConsistent (resetEngine rest s) := by
  simp [ResponsesConsistent]

theorem AnsweredOnce.responsesConsistent (h : AnsweredOnce s t) (hs : ResponsesConsistent s) :
    ResponsesConsistent t := by
  obtain ⟨r, hresp, hst, hr⟩ := h
  obtain ⟨hlegal, -⟩ := hs
  refine ⟨fun r' hmem => ?_, by simp [hresp, hst]⟩
  rw [hresp, List.mem_cons] at hmem
  rcases hmem with rfl | hold
  · exact hr
  · exact hlegal r' hold

theorem responsesConsistent_step (hs : ResponsesConsistent s) (h : step s = .next t) :
    ResponsesConsistent t := by
  cases stepEnding_of_step h with
  | idle => exact hs
  | reset => exact responsesConsistent_resetEngine _ s
  | illegal => exact (answeredOnce_rejected (taken s _ _) _).responsesConsistent hs
  | command _ _ he => exact he.answeredOnce.responsesConsistent hs

/-! ## Without a key -/

/-- `t` is `s` after some error and no more. -/
def Refused (s t : State) : Prop := ∃ c, c ≠ 0x00#8 ∧ t = rejected s c

theorem refused_error (e : ErrorKind) (s : State) : Refused s (rejected s (statusCode e)) :=
  ⟨_, statusCode_ne_ok e, rfl⟩

theorem refused_withKey (h : s.keyValid = 0#1) (k : State) : Refused s (withKey s k) := by
  simpa [withKey_eq, h, statusCode] using refused_error .notKeyed s

theorem refused_withBytes_withKey (h : s.keyValid = 0#1) (ok : Nat → Bool) (k : List Byte → State) :
    Refused s (withBytes ok s fun bs => withKey s (k bs)) := by
  rcases withBytes_cases ok s fun bs => withKey s (k bs) with ⟨bs, -, -, -, e⟩ | ⟨-, e⟩ <;> rw [e]
  · exact refused_withKey h _
  · exact refused_error .malformedPayload s

theorem refused_withText_withKey (h : s.keyValid = 0#1) (k : List CodeUnit → State) :
    Refused s (withText s fun us => withKey s (k us)) := by
  rcases withText_cases s fun us => withKey s (k us) with ⟨us, -, -, e⟩ | ⟨-, e⟩ <;> rw [e]
  · exact refused_withKey h _
  · exact refused_error .malformedPayload s

/-- A keyed command checks its payload and then KEYVALID, before anything that reads the table. -/
theorem exec_refused_of_unkeyed (h : s.keyValid = 0#1) (hi : keyedCommand i = true) :
    ∃ t, exec i s = .next t ∧ Refused s t :=
  match i, hi with
  | .skread, _ | .encblk, _ | .decblk, _ | .cbcenc, _ | .cbcdec, _ =>
    ⟨_, rfl, refused_withBytes_withKey h _ _⟩
  | .encrypt, _ | .decrypt, _ => ⟨_, rfl, refused_withText_withKey h _⟩

/-! ## Two runs on one payload -/

section TwoRuns

variable {R : State → State → Prop} (hin : s.input = t.input) (hb : s.build = t.build)
  (hm : R (rejected s 0x06#8) (rejected t 0x06#8))

include hin hb hm

/-- Two states with one payload and one build take the same branch of the payload check. -/
theorem withBytes_rel {ok : Nat → Bool} {k k' : List Byte → State} (h : ∀ bs, R (k bs) (k' bs)) :
    R (withBytes ok s k) (withBytes ok t k') := by
  simp only [withBytes, hin, hb, raise_eq_rejected, statusCode]
  repeat' split
  exacts [h _, hm, hm, hm]

/-- `withBytes_rel` for Text. -/
theorem withText_rel {k k' : List CodeUnit → State} (h : ∀ us, R (k us) (k' us)) :
    R (withText s k) (withText t k') := by
  simp only [withText, hin, hb, raise_eq_rejected, statusCode]
  repeat' split
  exacts [h _, hm, hm, hm]

/-- `withBytes_rel` for Words. -/
theorem withWords_rel {k k' : List Word → State} (h : ∀ ws, R (k ws) (k' ws)) :
    R (withWords s k) (withWords t k') := by
  simp only [withWords, hin, hb, raise_eq_rejected, statusCode]
  repeat' split
  exacts [h _, hm, hm, hm]

/-- `withBytes_rel` for two words. -/
theorem withTwoWords_rel {k k' : Word → Word → State} (h : ∀ a b, R (k a b) (k' a b)) :
    R (withTwoWords s k) (withTwoWords t k') := by
  refine withWords_rel hin hb hm fun ws => ?_
  match ws with
  | [a, b] => exact h a b
  | [] | [_] | _ :: _ :: _ :: _ => exact hm

end TwoRuns

/-- `s'` and `t'` are `s` and `t` with one more response each, the same one. -/
def RespondedAlike (s t s' t' : State) : Prop :=
  ∃ r, s'.responses = r :: s.responses ∧ t'.responses = r :: t.responses

theorem respondedAlike_rejected (s t : State) (c : BitVec 8) :
    RespondedAlike s t (rejected s c) (rejected t c) := ⟨_, rfl, rfl⟩

theorem respondedAlike_respond (s t : State) (v : Payload) :
    RespondedAlike s t (respond v s) (respond v t) := ⟨_, rfl, rfl⟩

/-- The one result UNPAD and B64DEC may lack, which is an error then. -/
theorem respondedAlike_option (s t : State) (e : ErrorKind) (x : Option (List Byte)) :
    RespondedAlike s t
      (match x with
        | none => raise e s
        | some d => respond (.bytes d) s)
      (match x with
        | none => raise e t
        | some d => respond (.bytes d) t) := by
  cases x with
  | none => exact ⟨_, rfl, rfl⟩
  | some d => exact respondedAlike_respond s t _

/-- A word, codec or padding command hands its payload to a function of the payload and the build. -/
theorem exec_respondedAlike (hkey : keyedCommand i = false) (hset : keySetupCommand i = false)
    (hcfg : i ≠ .cfgrd) (hin : s.input = t.input) (hb : s.build = t.build) :
    ∃ s' t', exec i s = .next s' ∧ exec i t = .next t' ∧ RespondedAlike s t s' t' := by
  have hm := respondedAlike_rejected s t 0x06#8
  have ha := respondedAlike_respond s t
  cases i with
  | keyset | keysetb => cases hset
  | skread | encblk | decblk | cbcenc | cbcdec | encrypt | decrypt => cases hkey
  | cfgrd => exact absurd rfl hcfg
  | pad | utf8dec | b64enc | hexof | b2w =>
    exact ⟨_, _, rfl, rfl, withBytes_rel hin hb hm fun _ => ha _⟩
  | utf8enc => exact ⟨_, _, rfl, rfl, withText_rel hin hb hm fun _ => ha _⟩
  | w2b => exact ⟨_, _, rfl, rfl, withWords_rel hin hb hm fun _ => ha _⟩
  | wadd | wsub | wxor | wrotl | wrotr =>
    exact ⟨_, _, rfl, rfl, withTwoWords_rel hin hb hm fun _ _ => ha _⟩
  | b64dec =>
    exact ⟨_, _, rfl, rfl, withText_rel hin hb hm fun _ => respondedAlike_option s t .invalidCiphertext _⟩
  | unpad =>
    refine ⟨_, _, rfl, rfl, withBytes_rel hin hb hm fun d => ?_⟩
    rw [hb]
    exact respondedAlike_option s t .paddingValidationFailure _

end Sys2Proof.Laws
end

section
/-! PROOF. The obligations of 10_state.md, from the cases of a step and of a command. -/

namespace Sys2Proof.Laws

open Sys2Proof.Machine Sys2Proof.Claims

/-- Settles O10: the fields of `State.reset`, read off. -/
theorem resetRegisterValues : Obligations.ResetRegisterValues := ⟨rfl, rfl, rfl, rfl, rfl⟩

/-- Settles O11: `State.reset` is what a reset makes of it, and a reset leaves both invariants. -/
theorem resetStateIsSafe : Obligations.ResetStateIsSafe :=
  ⟨registersConsistent_resetEngine [] State.reset, responsesConsistent_resetEngine [] State.reset⟩

/-- Settles O12: the two halves of the invariant, each kept by every ending of a step. -/
theorem safeStatesStaySafe : Obligations.SafeStatesStaySafe := by
  rintro s t ⟨hregs, hresps⟩ h
  exact ⟨registersConsistent_step hregs h, responsesConsistent_step hresps h⟩

/-- Settles O13: base case, step lemma, and the KEYVALID check before every read of the table. -/
theorem registerInvariantKept : Obligations.RegisterInvariantKept := by
  refine ⟨registersConsistent_resetEngine [] State.reset, fun _ _ => registersConsistent_step, fun s i h hi => ?_⟩
  obtain ⟨_, hexec, c, hc, rfl⟩ := exec_refused_of_unkeyed h hi
  exact ⟨c, hc, hexec⟩

/-- Settles O14: a command word is illegal or decodes, and either way the step answers once. -/
theorem everyCommandAnswersOnce : Obligations.EveryCommandAnswersOnce := by
  refine ⟨rfl, fun s w p rest h => ?_⟩
  suffices ∃ t, step s = .next t ∧ AnsweredOnce (taken s p rest) t by
    obtain ⟨t, ht, r, hr⟩ := this
    exact ⟨t, r, ht, hr⟩
  cases hd : decode w with
  | error d => exact ⟨_, step_of_illegal h hd, answeredOnce_rejected _ _⟩
  | ok i =>
    obtain ⟨t, ht, he⟩ := exec_cases i (taken s p rest)
    exact ⟨t, (step_of_command h hd).trans ht, he.answeredOnce⟩

/-- Settles O15: no ending of a step writes the build parameters. -/
theorem buildParametersNeverChange : Obligations.BuildParametersNeverChange := by
  intro s t h
  cases stepEnding_of_step h with
  | idle | reset | illegal => rfl
  | command _ _ he => exact he.build_eq

/-- Settles O16: the two endings of a key setup, and the frame of every other command. -/
theorem onlyKeySetupWritesTheTable : Obligations.OnlyKeySetupWritesTheTable := by
  refine ⟨fun k i s t hi h => ?_, fun i s t hk h => (ending_of_exec h).tableRegisters_eq hk⟩
  obtain ⟨e, rfl⟩ | ⟨key, hr, rfl⟩ := (ending_of_exec h).keySetup_cases hi
  · exact ⟨fun hok => absurd hok (statusCode_ne_ok e), fun _ => rfl⟩
  · have hmod : effectiveRounds k % 256 = effectiveRounds k := by omega
    exact ⟨fun _ => by simp [hmod, tableLength], fun hne => absurd rfl hne⟩

/-- Settles O17: of the three ways KEYVALID can go, only a reset leaves 0 and only a key setup leaves 1 anew. -/
theorem keyValidSetByKeySetupClearedByReset : Obligations.KeyValidSetByKeySetupClearedByReset := by
  intro s t h
  obtain hsame | ⟨hreset, h0⟩ | ⟨hset, h1⟩ := (stepEnding_of_step h).keyValid_cases
  · exact ⟨fun hs ht => by simp [hsame, hs] at ht, fun hs ht => by simp [hsame, hs] at ht⟩
  · exact ⟨fun _ _ => hreset, fun _ ht => by simp [h0] at ht⟩
  · exact ⟨fun _ ht => by simp [h1] at ht, fun _ _ => hset⟩

/-- Settles O21: each ending of a command names every field it writes, and no key setup draws. -/
theorem sideEffectsOfEveryCommand : Obligations.SideEffectsOfEveryCommand := by
  intro i s t h
  cases ending_of_exec h with
  | error e =>
    exact ⟨{ st := statusCode e, out := none }, fun _ => rfl, fun _ _ => rfl,
      fun _ hok => absurd hok (statusCode_ne_ok e)⟩
  | output v hk hd =>
    exact ⟨{ st := 0x00#8, out := some v }, fun _ => rfl, fun _ _ => rfl, fun hd' => by simp [hd] at hd'⟩
  | drawn v hk hd =>
    exact ⟨{ st := 0x00#8, out := some v }, fun hk' => by simp [hk] at hk', fun _ hno => by simp [hd] at hno,
      fun _ _ => rfl⟩
  | keyed k key hi =>
    have hk := keySetupCommand_of_eq hi
    exact ⟨{ st := 0x00#8, out := some (.bytes []) }, fun _ => rfl, fun hk' => by simp [hk] at hk',
      fun hd' => by simp [keySetup_not_drawing hk] at hd'⟩

/-- Settles O24: the two runs take the same branch of the payload check and answer the same value. -/
theorem unkeyedCommandsReadNoRegister : Obligations.UnkeyedCommandsReadNoRegister := by
  intro i s t s' hkey hset hcfg hin hb h
  obtain ⟨s'', t', hs, ht, r, hr, hr'⟩ := exec_respondedAlike hkey hset hcfg hin hb
  obtain rfl : s' = s'' := by simpa [h] using hs
  exact ⟨t', r, ht, hr, hr'⟩

end Sys2Proof.Laws
end

section
/-! PROOF. What one command can leave behind for a later one (20_memory.md R68, R72): two states that a command
cannot tell apart answer alike, and what it leaves is fixed by its response. -/

namespace Sys2Proof.Laws

open Sys2Proof.Machine Sys2Proof.Claims

variable {s t s' t' : State} {i : Instr}

/-! ## A response fixes the rest of the state -/

/-- `s` with response `r` given and its code in STATUS. -/
def withResponse (r : Response) (s : State) : State :=
  { s with status := r.st, responses := r :: s.responses }

/-- `s` as a command ending with response `r` leaves the RNG: a draw is taken only where the command draws and
succeeds (10_state.md R40, 60_exceptions.md R303). -/
def drawnBy (i : Instr) (r : Response) (s : State) : State :=
  if drawingCommand i = true ∧ r.st = 0x00#8 then afterDraw s else s

theorem drawnBy_of_not_drawing (hd : drawingCommand i = false) (r : Response) (s : State) :
    drawnBy i r s = s := by
  simp [drawnBy, hd]

/-- A command that sets up no key leaves a state that its response determines. -/
theorem Ending.eq_withResponse {r : Response} (he : Ending i s t) (hk : keySetupCommand i = false)
    (hr : t.responses = r :: s.responses) : t = withResponse r (drawnBy i r s) := by
  cases he with
  | error e =>
    obtain rfl : { st := statusCode e, out := none } = r := by simpa using hr
    simp [drawnBy, statusCode_ne_ok, withResponse, rejected]
  | output v _ hd =>
    obtain rfl : { st := 0x00#8, out := some v } = r := by simpa using hr
    simp [drawnBy, hd, withResponse, answered]
  | drawn v _ hd =>
    obtain rfl : { st := 0x00#8, out := some v } = r := by simpa using hr
    simp [drawnBy, hd, withResponse, answered]
  | keyed k key hi => simp [keySetupCommand_of_eq hi] at hk

theorem sameToCommands_withResponse (r : Response) (s : State) : SameToCommands s (withResponse r s) :=
  ⟨rfl, rfl, rfl, rfl, rfl, rfl, rfl, rfl⟩

theorem Ending.input_eq (he : Ending i s t) : t.input = s.input := by cases he <;> rfl

/-- Equal responses, and equal draws, keep two states indistinguishable. -/
theorem sameToCommands_withResponse_drawnBy (h : SameToCommands s t) (i : Instr) (r : Response) :
    SameToCommands (withResponse r (drawnBy i r s)) (withResponse r (drawnBy i r t)) := by
  obtain ⟨hkv, hrounds, hwsize, htable, hb, hin, hrng, hdraws⟩ := h
  unfold drawnBy
  split
  · exact ⟨hkv, hrounds, hwsize, htable, hb, hin, congrArg List.tail hrng, congrArg (· + 1) hdraws⟩
  · exact ⟨hkv, hrounds, hwsize, htable, hb, hin, hrng, hdraws⟩

/-! ## Commands that set up no key -/

/-- Two states with one KEYVALID take the same branch of the KEYVALID check. -/
theorem withKey_rel {R : State → State → Prop} {k k' : State} (hkv : s.keyValid = t.keyValid)
    (hn : R (rejected s 0x07#8) (rejected t 0x07#8)) (h : R k k') : R (withKey s k) (withKey t k') := by
  simp only [withKey_eq, hkv]
  split
  · exact h
  · exact hn

/-- `respondedAlike_respond` after a draw. -/
theorem respondedAlike_respond_afterDraw (s t : State) (v : Payload) :
    RespondedAlike s t (respond v (afterDraw s)) (respond v (afterDraw t)) := ⟨_, rfl, rfl⟩

/-- `respondedAlike_option` for DECRYPT's errors and result. -/
theorem respondedAlike_except (s t : State) (x : Except ErrorKind (List CodeUnit)) :
    RespondedAlike s t
      (match x with
        | .error e => raise e s
        | .ok us => respond (.text us) s)
      (match x with
        | .error e => raise e t
        | .ok us => respond (.text us) t) := by
  cases x with
  | error e => exact ⟨_, rfl, rfl⟩
  | ok us => exact respondedAlike_respond s t _

/-- What a draw answers is fixed by the RNG's answers and the number of draws (10_state.md R40). -/
theorem nextDraw_congr (hrng : s.rng = t.rng) (hdraws : s.draws = t.draws) : nextDraw s = nextDraw t := by
  simp only [nextDraw, hrng, hdraws]

/-- Every command but a key setup answers alike in two states it cannot tell apart: CFGRD and the keyed commands
hand on what the two states share, and the others read no register at all. -/
theorem exec_respondedAlike_of_sameToCommands (hset : keySetupCommand i = false) (h : SameToCommands s t) :
    ∃ s' t', exec i s = .next s' ∧ exec i t = .next t' ∧ RespondedAlike s t s' t' := by
  obtain ⟨hkv, hrounds, hwsize, htable, hb, hin, hrng, hdraws⟩ := h
  have hm := respondedAlike_rejected s t 0x06#8
  have hn := respondedAlike_rejected s t 0x07#8
  have ha := respondedAlike_respond s t
  have hd := respondedAlike_respond_afterDraw s t
  cases i with
  | keyset | keysetb => cases hset
  | cfgrd =>
    refine ⟨_, _, rfl, rfl, withBytes_rel hin hb hm fun _ => ?_⟩
    rw [isKeyed, isKeyed, hkv, hrounds, hwsize]
    exact ha _
  | skread | encblk | decblk =>
    refine ⟨_, _, rfl, rfl, withBytes_rel hin hb hm fun _ => withKey_rel hkv hn ?_⟩
    rw [htable, hrounds]
    exact ha _
  | cbcenc =>
    refine ⟨_, _, rfl, rfl, withBytes_rel hin hb hm fun p => withKey_rel hkv hn ?_⟩
    rw [draw16_eq, draw16_eq, nextDraw_congr hrng hdraws, htable, hrounds]
    exact hd _
  | cbcdec =>
    refine ⟨_, _, rfl, rfl, withBytes_rel hin hb hm fun d => withKey_rel hkv hn ?_⟩
    rw [htable, hrounds]
    exact respondedAlike_option s t .invalidCiphertext _
  | encrypt =>
    refine ⟨_, _, rfl, rfl, withText_rel hin hb hm fun us => withKey_rel hkv hn ?_⟩
    rw [draw16_eq, draw16_eq, nextDraw_congr hrng hdraws, htable, hrounds]
    exact hd _
  | decrypt =>
    refine ⟨_, _, rfl, rfl, withText_rel hin hb hm fun token => withKey_rel hkv hn ?_⟩
    rw [htable, hrounds, hb]
    exact respondedAlike_except s t _
  | pad | unpad | utf8enc | utf8dec | b64enc | b64dec | hexof | wadd | wsub | wxor | wrotl | wrotr | b2w | w2b =>
    exact exec_respondedAlike rfl rfl nofun hin hb

/-! ## The key setups -/

/-- `s'` and `t'` are `s` and `t` after the same error, or with the same table installed. -/
def SetUpAlike (s t s' t' : State) : Prop :=
  (∃ c, s' = rejected s c ∧ t' = rejected t c) ∨
  ∃ r S, s' = answered (installTable r S s) (.bytes []) ∧ t' = answered (installTable r S t) (.bytes [])

theorem setUpAlike_rejected (s t : State) (c : BitVec 8) : SetUpAlike s t (rejected s c) (rejected t c) :=
  .inl ⟨c, rfl, rfl⟩

/-- A key setup looks at its fields, the key and the build, and not at the table there was. -/
theorem keySetup_setUpAlike (hb : s.build = t.build) (f : KFields) (key : List Byte) :
    SetUpAlike s t (keySetup f key s) (keySetup f key t) := by
  simp only [keySetup_cases, hb]
  split
  · exact setUpAlike_rejected s t _
  split
  · exact setUpAlike_rejected s t _
  split
  · exact setUpAlike_rejected s t _
  · exact .inr ⟨_, _, rfl, rfl⟩

theorem exec_setUpAlike (hset : keySetupCommand i = true) (hin : s.input = t.input) (hb : s.build = t.build) :
    ∃ s' t', exec i s = .next s' ∧ exec i t = .next t' ∧ SetUpAlike s t s' t' :=
  have hm := setUpAlike_rejected s t 0x06#8
  match i, hset with
  | .keyset f, _ => ⟨_, _, rfl, rfl, withText_rel hin hb hm fun _ => keySetup_setUpAlike hb f _⟩
  | .keysetb f, _ => ⟨_, _, rfl, rfl, withBytes_rel hin hb hm fun _ => keySetup_setUpAlike hb f _⟩

/-- A key setup keeps two states indistinguishable, whichever way it ends. -/
theorem SetUpAlike.sameToCommands (h : SetUpAlike s t s' t') (hsame : SameToCommands s t) :
    RespondedAlike s t s' t' ∧ SameToCommands s' t' := by
  obtain ⟨-, -, -, -, hb, hin, hrng, hdraws⟩ := id hsame
  obtain ⟨c, rfl, rfl⟩ | ⟨r, S, rfl, rfl⟩ := h
  · exact ⟨respondedAlike_rejected s t c, hsame⟩
  · exact ⟨⟨_, rfl, rfl⟩, rfl, rfl, rfl, rfl, hb, hin, hrng, hdraws⟩

/-- A key setup run again on what it left ends as before (42_key_schedule.md R144). -/
theorem SetUpAlike.repeated (h : SetUpAlike s t t t') :
    ∃ r, t.responses = r :: s.responses ∧ t' = { t with responses := r :: t.responses } := by
  obtain ⟨c, hs, rfl⟩ | ⟨r, S, hs, rfl⟩ := h <;> subst hs <;> exact ⟨_, rfl, rfl⟩

end Sys2Proof.Laws
end

section
/-! PROOF. The length of the output, command by command (30_encoding.md R85): CBC keeps whole blocks, and every
other length is the one the command's function has. -/

namespace Sys2Proof.Machine

/-- Each block decrypted has the length of the block it is chained on, which is 16. -/
theorem length_cbcDecBlocks (S : List Word) (r m : Nat) (d prev : List Byte) (hd : 16 * m ≤ d.length)
    (hprev : prev.length = 16) : (cbcDecBlocks S r m d prev).length = 16 * m := by
  induction m generalizing d prev with
  | zero => rfl
  | succ m ih =>
    have hrest := ih (d.drop 16) (d.take 16) (by rw [List.length_drop]; omega) (by rw [List.length_take]; omega)
    simp [cbcDecBlocks, hprev, hrest]
    omega

theorem length_cbcEncrypt (S : List Word) (r : Nat) (iv : Iv) {p : List Byte} (h : p.length % 16 = 0) :
    (cbcEncrypt S r iv p).length = p.length + 16 := by
  simp [cbcEncrypt]
  omega

theorem length_of_cbcDecrypt {S : List Word} {r : Nat} {d p : List Byte} (h : cbcDecrypt S r d = some p) :
    p.length = d.length - 16 := by
  unfold cbcDecrypt at h
  split at h
  · cases h
  · next hlen =>
    obtain rfl := Option.some.inj h
    rw [length_cbcDecBlocks _ _ _ _ _ (by rw [List.length_drop]; omega) (by rw [List.length_take]; omega)]
    omega

end Sys2Proof.Machine

namespace Sys2Proof.Laws

open Sys2Proof.Machine Sys2Proof.Claims

variable {s t : State} {i : Instr} {n : Nat}

/-- If `t` is `s` with an output given, that output has `n` elements. -/
def OutputLength (s : State) (n : Nat) (t : State) : Prop :=
  ∀ v, t.responses = { st := 0x00#8, out := some v } :: s.responses → v.length = n

theorem outputLength_rejected (s : State) (n : Nat) (c : BitVec 8) : OutputLength s n (rejected s c) := by
  intro v h
  simp at h

theorem outputLength_respond {v : Payload} (ht : t.responses = s.responses) (hv : v.length = n) :
    OutputLength s n (respond v t) := by
  intro v' h
  obtain rfl : v = v' := by simpa [ht, okCode] using h
  exact hv

theorem outputLength_withKey {k : State} (h : OutputLength s n k) : OutputLength s n (withKey s k) := by
  rw [withKey_eq]
  split
  · exact h
  · exact outputLength_rejected s n _

theorem outputLength_withBytes (ok : Nat → Bool) {k : List Byte → State}
    (h : ∀ bs, s.input = .bytes bs → ok bs.length = true → OutputLength s n (k bs)) :
    OutputLength s n (withBytes ok s k) := by
  rcases withBytes_cases ok s k with ⟨bs, hin, hok, -, e⟩ | ⟨-, e⟩ <;> rw [e]
  · exact h bs hin hok
  · exact outputLength_rejected s n _

theorem outputLength_withWords {k : List Word → State}
    (h : ∀ ws, s.input = .words ws → OutputLength s n (k ws)) : OutputLength s n (withWords s k) := by
  rcases withWords_cases s k with ⟨ws, hin, -, e⟩ | ⟨-, e⟩ <;> rw [e]
  · exact h ws hin
  · exact outputLength_rejected s n _

theorem outputLength_withTwoWords {k : Word → Word → State} (h : ∀ a b, OutputLength s n (k a b)) :
    OutputLength s n (withTwoWords s k) := by
  rcases withTwoWords_cases s k with ⟨a, b, -, -, e⟩ | ⟨-, e⟩ <;> rw [e]
  · exact h a b
  · exact outputLength_rejected s n _

/-- A key setup that succeeds returns no bytes (42_key_schedule.md R145). -/
theorem Ending.outputLength_keySetup {k : KFields} (he : Ending i s t) (hi : i = .keyset k ∨ i = .keysetb k) :
    OutputLength s 0 t := by
  obtain ⟨e, rfl⟩ | ⟨key, -, rfl⟩ := he.keySetup_cases hi
  · exact outputLength_rejected s 0 _
  · exact outputLength_respond (t := installTable _ _ s) rfl rfl

/-- Where the opcode map gives a length, a command's output has it. -/
theorem exec_outputLength (hn : declaredOutLength i s = some n) :
    ∃ t, exec i s = .next t ∧ OutputLength s n t := by
  cases i with
  | pad | unpad | utf8enc | utf8dec | b64enc | b64dec | hexof | encrypt | decrypt => cases hn
  | keyset k =>
    cases hn
    obtain ⟨t, ht, he⟩ := exec_cases (.keyset k) s
    exact ⟨t, ht, he.outputLength_keySetup (.inl rfl)⟩
  | keysetb k =>
    cases hn
    obtain ⟨t, ht, he⟩ := exec_cases (.keysetb k) s
    exact ⟨t, ht, he.outputLength_keySetup (.inr rfl)⟩
  | skread =>
    cases hn
    refine ⟨_, rfl, outputLength_withBytes _ fun _ _ _ => outputLength_withKey (outputLength_respond rfl ?_)⟩
    simp [Payload.length, tableLength]
  | cfgrd => cases hn; exact ⟨_, rfl, outputLength_withBytes _ fun _ _ _ => outputLength_respond rfl rfl⟩
  | encblk | decblk =>
    cases hn
    exact ⟨_, rfl, outputLength_withBytes _ fun _ _ _ => outputLength_withKey (outputLength_respond rfl rfl)⟩
  | cbcenc =>
    cases hn
    refine ⟨_, rfl, outputLength_withBytes _ fun p hin hok => outputLength_withKey ?_⟩
    rw [draw16_eq, hin]
    exact outputLength_respond rfl (length_cbcEncrypt _ _ _ (by simpa [blockMultiple] using hok))
  | cbcdec =>
    cases hn
    refine ⟨_, rfl, outputLength_withBytes _ fun d hin _ => outputLength_withKey ?_⟩
    rw [hin]
    split
    · rw [raise_eq_rejected]
      exact outputLength_rejected s _ _
    · next p hp => exact outputLength_respond rfl (length_of_cbcDecrypt hp)
  | wadd | wsub | wxor | wrotl | wrotr =>
    cases hn
    exact ⟨_, rfl, outputLength_withTwoWords fun _ _ => outputLength_respond rfl rfl⟩
  | b2w =>
    cases hn
    refine ⟨_, rfl, outputLength_withBytes _ fun bs hin _ => outputLength_respond rfl ?_⟩
    rw [hin]
    exact length_bytesToWords bs
  | w2b =>
    cases hn
    refine ⟨_, rfl, outputLength_withWords fun ws hin => outputLength_respond rfl ?_⟩
    rw [hin]
    exact length_wordsToBytes ws

/-- An output has the kind of the column "out", whichever way the command succeeded. -/
theorem Ending.kind_eq {v : Payload} (he : Ending i s t)
    (hr : t.responses = { st := 0x00#8, out := some v } :: s.responses) : v.kind = declaredOut i := by
  cases he with
  | error e => simp at hr
  | output v' _ _ hv | drawn v' _ _ hv =>
    obtain rfl : v' = v := by simpa using hr
    exact hv
  | keyed k key hi =>
    obtain rfl : Payload.bytes [] = v := by simpa using hr
    rcases hi with rfl | rfl <;> rfl

end Sys2Proof.Laws
end

section
/-! PROOF. The obligations of 20_memory.md. -/

namespace Sys2Proof.Laws

open Sys2Proof.Machine Sys2Proof.Claims

/-- Settles O6: the command branch of the step. -/
theorem stepRunsDecodedCommand : Obligations.StepRunsDecodedCommand :=
  fun _ _ _ _ _ hhost hd => step_of_command hhost hd

/-- Settles O22: what such a command leaves looks to it like what it found; a key setup does not look at the table. -/
theorem repeatedCommandGivesTheSame : Obligations.RepeatedCommandGivesTheSame := by
  intro i s t hdraw h
  have he := ending_of_exec h
  cases hset : keySetupCommand i with
  | true =>
    obtain ⟨s', t', hs, ht, halike⟩ := exec_setUpAlike hset he.input_eq.symm he.build_eq.symm
    obtain rfl : t = s' := by simpa [h] using hs
    obtain ⟨r, hr, rfl⟩ := halike.repeated
    exact ⟨r, hr, ht⟩
  | false =>
    obtain ⟨r, hr, -⟩ := he.answeredOnce
    have hts : t = withResponse r s := by
      simpa only [drawnBy_of_not_drawing hdraw] using he.eq_withResponse hset hr
    obtain ⟨s', t', hs, ht, r', hr', hr''⟩ :=
      exec_respondedAlike_of_sameToCommands hset (hts ▸ sameToCommands_withResponse r s)
    obtain rfl : t = s' := by simpa [h] using hs
    obtain rfl : r = r' := by simpa [hr] using hr'
    have htt : t' = withResponse r t := by
      simpa only [drawnBy_of_not_drawing hdraw] using (ending_of_exec ht).eq_withResponse hset hr''
    exact ⟨r, hr, by rw [ht, htt, hts]; rfl⟩

/-- Settles O23: the two runs answer alike, and a response fixes all else, but for the table a key setup installs,
which is the same in both. -/
theorem onlyTableRegistersCarryOver : Obligations.OnlyTableRegistersCarryOver := by
  intro i s t s' hsame h
  suffices ∃ s' t', exec i s = .next s' ∧ exec i t = .next t' ∧ RespondedAlike s t s' t' ∧ SameToCommands s' t' by
    obtain ⟨s'', t', hs, ht, ⟨r, hr, hr'⟩, hsame'⟩ := this
    obtain rfl : s' = s'' := by simpa [h] using hs
    exact ⟨t', r, ht, hr, hr', hsame'⟩
  cases hset : keySetupCommand i with
  | true =>
    obtain ⟨-, -, -, -, hb, hin, -, -⟩ := id hsame
    obtain ⟨s', t', hs, ht, halike⟩ := exec_setUpAlike hset hin hb
    exact ⟨s', t', hs, ht, halike.sameToCommands hsame⟩
  | false =>
    obtain ⟨s', t', hs, ht, r, hr, hr'⟩ := exec_respondedAlike_of_sameToCommands hset hsame
    refine ⟨s', t', hs, ht, ⟨r, hr, hr'⟩, ?_⟩
    rw [(ending_of_exec hs).eq_withResponse hset hr, (ending_of_exec ht).eq_withResponse hset hr']
    exact sameToCommands_withResponse_drawnBy hsame i r

/-- Settles O25: the kind from the command's ending, the length from its function. -/
theorem outputIsAsDeclared : Obligations.OutputIsAsDeclared := by
  intro i s t v h hr
  refine ⟨(ending_of_exec h).kind_eq hr, fun n hn => ?_⟩
  obtain ⟨t', ht, hlen⟩ := exec_outputLength hn
  obtain rfl : t = t' := by simpa [h] using ht
  exact hlen v hr

end Sys2Proof.Laws
end

section
/-! PROOF. The fields of a command word as numbers (30_encoding.md R81, R82), and from them what the decoder accepts
and the one word of each command (R85 to R87). -/

namespace Sys2Proof

open Sys2Proof.Machine Sys2Proof.Claims

variable {w : BitVec 32} {i : Instr} {k : KFields} {opc : BitVec 8} {make : KFields → Instr}

/-! ## Fields as numbers -/

theorem toNat_bits (w : BitVec 32) (hi lo : Nat) :
    (bits w hi lo).toNat = w.toNat / 2 ^ lo % 2 ^ (hi - lo + 1) := by
  rw [bits, BitVec.extractLsb'_toNat, Nat.shiftRight_eq_div_pow]

theorem bits_eq_iff {hi lo : Nat} {x : BitVec (hi - lo + 1)} :
    bits w hi lo = x ↔ w.toNat / 2 ^ lo % 2 ^ (hi - lo + 1) = x.toNat := by
  rw [← BitVec.toNat_inj, toNat_bits]

/-- OPC. -/
theorem opcodeBits_eq_iff : bits w 7 0 = opc ↔ w.toNat % 2 ^ 8 = opc.toNat := by
  simpa using bits_eq_iff (w := w) (hi := 7) (lo := 0) (x := opc)

/-- RSV of format K. -/
theorem reservedK_eq_zero_iff : bits w 15 13 = 0 ↔ w.toNat / 2 ^ 13 % 2 ^ 3 = 0 := bits_eq_iff

/-- RSV of format N. -/
theorem reservedN_eq_zero_iff : bits w 31 8 = 0 ↔ w.toNat / 2 ^ 8 = 0 := by
  have hfits : w.toNat / 2 ^ 8 % 2 ^ 24 = w.toNat / 2 ^ 8 := by omega
  rw [← hfits]
  exact bits_eq_iff

/-- A one-bit field, read as a flag. -/
theorem toNat_beq_one (b : BitVec 1) : (b == 1#1).toNat = b.toNat := by
  revert b
  decide

theorem flag_toNat_inj {a b : Bool} : a.toNat = b.toNat ↔ a = b := by
  revert a b
  decide

theorem toNat_kFields_wsl (w : BitVec 32) : (kFields w).wsl.toNat = w.toNat / 2 ^ 8 % 2 ^ 3 :=
  toNat_bits w 10 8

theorem toNat_kFields_dw (w : BitVec 32) : (kFields w).dw.toNat = w.toNat / 2 ^ 11 % 2 :=
  (toNat_beq_one _).trans (toNat_bits w 11 11)

theorem toNat_kFields_dr (w : BitVec 32) : (kFields w).dr.toNat = w.toNat / 2 ^ 12 % 2 :=
  (toNat_beq_one _).trans (toNat_bits w 12 12)

theorem toNat_kFields_rounds (w : BitVec 32) : (kFields w).rounds.toNat = w.toNat / 2 ^ 16 := by
  have hfits : w.toNat / 2 ^ 16 % 2 ^ 16 = w.toNat / 2 ^ 16 := by omega
  rw [← hfits]
  exact toNat_bits w 31 16

theorem kFields_eq_iff :
    kFields w = k ↔ w.toNat / 2 ^ 8 % 2 ^ 3 = k.wsl.toNat ∧ w.toNat / 2 ^ 11 % 2 = k.dw.toNat ∧
      w.toNat / 2 ^ 12 % 2 = k.dr.toNat ∧ w.toNat / 2 ^ 16 = k.rounds.toNat := by
  rw [← toNat_kFields_wsl, ← toNat_kFields_dw, ← toNat_kFields_dr, ← toNat_kFields_rounds,
    BitVec.toNat_inj, BitVec.toNat_inj, flag_toNat_inj, flag_toNat_inj]
  cases k
  exact (KFields.mk.injEq ..).to_iff

/-! ## Words as numbers -/

theorem toNat_encodeK (opc : BitVec 8) (k : KFields) :
    (encodeK opc k).toNat = k.rounds.toNat * 2 ^ 16 + k.dr.toNat * 2 ^ 12 + k.dw.toNat * 2 ^ 11 +
      k.wsl.toNat * 2 ^ 8 + opc.toNat := by
  simp only [encodeK, toNat_append, BitVec.toNat_ofBool, BitVec.toNat_ofNat]
  omega

theorem toNat_encodeN (opc : BitVec 8) : (encodeN opc).toNat = opc.toNat := by
  rw [encodeN, toNat_append, BitVec.toNat_ofNat, Nat.zero_mod, Nat.zero_mul, Nat.zero_add]

/-- The fields of format K are the whole word (R81). -/
theorem encodeK_eq_iff : encodeK opc k = w ↔ bits w 7 0 = opc ∧ bits w 15 13 = 0 ∧ kFields w = k := by
  have hwsl := k.wsl.isLt
  have hdw := k.dw.toNat_lt
  have hdr := k.dr.toNat_lt
  rw [← BitVec.toNat_inj, toNat_encodeK, opcodeBits_eq_iff, reservedK_eq_zero_iff, kFields_eq_iff]
  omega

/-- The fields of format N are the whole word (R82). -/
theorem encodeN_eq_iff : encodeN opc = w ↔ bits w 7 0 = opc ∧ bits w 31 8 = 0 := by
  rw [← BitVec.toNat_inj, toNat_encodeN, opcodeBits_eq_iff, reservedN_eq_zero_iff]
  omega

/-! ## The opcode map (R85) -/

theorem opcodeN_eq_some_iff : opcodeN opc = some i ↔ keySetupCommand i = false ∧ i.opcode = opc := by
  constructor
  · intro h
    unfold opcodeN at h
    split at h <;> cases h <;> exact ⟨rfl, BitVec.eq_of_toNat_eq (Eq.symm ‹_›)⟩
  · rintro ⟨hk, rfl⟩
    cases i with
    | keyset | keysetb => cases hk
    | _ => rfl

theorem encode_eq_encodeN (hk : keySetupCommand i = false) : encode i = encodeN i.opcode := by
  cases i with
  | keyset | keysetb => cases hk
  | _ => rfl

theorem wellFormed_of_formatN (hk : keySetupCommand i = false) : i.wellFormed = true := by
  cases i with
  | keyset | keysetb => cases hk
  | _ => rfl

theorem opcode_of_formatN (hk : keySetupCommand i = false) :
    i.opcode.toNat ∈ assignedOpcodes ∧ i.opcode ≠ 0x01#8 ∧ i.opcode ≠ 0x02#8 := by
  cases i with
  | keyset | keysetb => cases hk
  | _ => decide

/-- Each row of the map is a format-K row or one of the decoder's. -/
theorem opcodeN_isSome_of_assigned :
    ∀ n ∈ assignedOpcodes, n = 0x01 ∨ n = 0x02 ∨ (opcodeN (BitVec.ofNat 8 n)).isSome = true := by
  decide

/-- The decoder's rows are the map's but for the two of format K. -/
theorem exists_opcodeN_eq_some_iff :
    (∃ i, opcodeN opc = some i) ↔ opc.toNat ∈ assignedOpcodes ∧ opc ≠ 0x01#8 ∧ opc ≠ 0x02#8 := by
  constructor
  · rintro ⟨i, h⟩
    obtain ⟨hk, rfl⟩ := opcodeN_eq_some_iff.1 h
    exact opcode_of_formatN hk
  · rintro ⟨hmem, h1, h2⟩
    obtain h | h | h := opcodeN_isSome_of_assigned _ hmem
    · exact absurd (BitVec.eq_of_toNat_eq h) h1
    · exact absurd (BitVec.eq_of_toNat_eq h) h2
    · rwa [BitVec.ofNat_toNat, BitVec.setWidth_eq, Option.isSome_iff_exists] at h

/-! ## The decoder (R86, R87) -/

theorem decodeK_eq_ok_iff :
    decodeK make w = .ok i ↔ bits w 15 13 = 0 ∧ (kFields w).wellFormed = true ∧ make (kFields w) = i := by
  unfold decodeK KFields.wellFormed
  split
  · simp_all
  split
  · simp_all
  split <;> simp_all

theorem decodeN_eq_ok_iff : decodeN w = .ok i ↔ opcodeN (bits w 7 0) = some i ∧ bits w 31 8 = 0 := by
  unfold decodeN
  split
  · simp_all
  · split <;> simp_all

theorem decode_of_keyset (h : bits w 7 0 = 0x01#8) : decode w = decodeK .keyset w := if_pos h

theorem decode_of_keysetb (h : bits w 7 0 = 0x02#8) : decode w = decodeK .keysetb w := by
  simp [decode, h]

theorem decode_of_formatN (h1 : bits w 7 0 ≠ 0x01#8) (h2 : bits w 7 0 ≠ 0x02#8) : decode w = decodeN w := by
  simp [decode, h1, h2]

/-- The three branches of the decoder. -/
theorem decode_cases (w : BitVec 32) :
    bits w 7 0 = 0x01#8 ∧ decode w = decodeK .keyset w ∨ bits w 7 0 = 0x02#8 ∧ decode w = decodeK .keysetb w ∨
      (bits w 7 0 ≠ 0x01#8 ∧ bits w 7 0 ≠ 0x02#8) ∧ decode w = decodeN w := by
  by_cases h1 : bits w 7 0 = 0x01#8
  · exact .inl ⟨h1, decode_of_keyset h1⟩
  by_cases h2 : bits w 7 0 = 0x02#8
  · exact .inr (.inl ⟨h2, decode_of_keysetb h2⟩)
  · exact .inr (.inr ⟨⟨h1, h2⟩, decode_of_formatN h1 h2⟩)

/-- A legal format-K word is read back as its fields. -/
theorem decodeK_encodeK (make : KFields → Instr) (hwf : k.wellFormed = true) :
    decodeK make (encodeK opc k) = .ok (make k) := by
  obtain ⟨-, hrsv, hk⟩ := encodeK_eq_iff.1 (rfl : encodeK opc k = _)
  exact decodeK_eq_ok_iff.2 ⟨hrsv, hk.symm ▸ hwf, congrArg make hk⟩

/-- R86 (d) and (e) on numbers. -/
theorem KFields.wellFormed_iff :
    k.wellFormed = true ↔ ¬ (k.dw.toNat = 1 ∧ k.wsl.toNat ≠ 0) ∧ ¬ (k.dr.toNat = 1 ∧ k.rounds.toNat ≠ 0) := by
  obtain ⟨wsl, dw, dr, rounds⟩ := k
  cases dw <;> cases dr <;>
    simp [KFields.wellFormed, KFields.wslOk, KFields.roundsOk, ← BitVec.toNat_inj]

theorem wellFormed_kFields_iff :
    (kFields w).wellFormed = true ↔ ¬ (w.toNat / 2 ^ 11 % 2 = 1 ∧ w.toNat / 2 ^ 8 % 2 ^ 3 ≠ 0) ∧
      ¬ (w.toNat / 2 ^ 12 % 2 = 1 ∧ w.toNat / 2 ^ 16 ≠ 0) := by
  rw [KFields.wellFormed_iff, toNat_kFields_wsl, toNat_kFields_dw, toNat_kFields_dr, toNat_kFields_rounds]

/-! ## Illegal words on numbers (R86) -/

theorem not_illegalWord_iff_of_formatK (h : w.toNat % 2 ^ 8 = 0x01 ∨ w.toNat % 2 ^ 8 = 0x02) :
    ¬ IllegalWord w ↔ bits w 15 13 = 0 ∧ (kFields w).wellFormed = true := by
  have hmem : w.toNat % 2 ^ 8 ∈ assignedOpcodes := by rcases h with h | h <;> rw [h] <;> decide
  rw [reservedK_eq_zero_iff, wellFormed_kFields_iff]
  simp only [IllegalWord, hmem, h, not_true, false_and, true_and, false_or, not_or, not_not]

theorem not_illegalWord_iff_of_formatN (h1 : w.toNat % 2 ^ 8 ≠ 0x01) (h2 : w.toNat % 2 ^ 8 ≠ 0x02) :
    ¬ IllegalWord w ↔ w.toNat % 2 ^ 8 ∈ assignedOpcodes ∧ bits w 31 8 = 0 := by
  rw [reservedN_eq_zero_iff]
  simp only [IllegalWord, h1, h2, or_self, not_false_iff, false_and, true_and, or_false, not_or, not_not]

theorem exists_decodeK_eq_ok_iff :
    (∃ i, decodeK make w = .ok i) ↔ bits w 15 13 = 0 ∧ (kFields w).wellFormed = true := by
  simp only [decodeK_eq_ok_iff, exists_and_left, exists_eq', and_true]

theorem exists_decodeN_eq_ok_iff (h1 : bits w 7 0 ≠ 0x01#8) (h2 : bits w 7 0 ≠ 0x02#8) :
    (∃ i, decodeN w = .ok i) ↔ w.toNat % 2 ^ 8 ∈ assignedOpcodes ∧ bits w 31 8 = 0 := by
  have hopc : (bits w 7 0).toNat = w.toNat % 2 ^ 8 := (opcodeBits_eq_iff.1 rfl).symm
  simp only [decodeN_eq_ok_iff, exists_and_right, exists_opcodeN_eq_some_iff, hopc]
  simp [h1, h2]

/-- The legal words are those outside (a) to (e), format by format. -/
theorem exists_decode_eq_ok_iff : (∃ i, decode w = .ok i) ↔ ¬ IllegalWord w := by
  obtain ⟨h, e⟩ | ⟨h, e⟩ | ⟨⟨h1, h2⟩, e⟩ := decode_cases w <;> rw [e]
  · rw [not_illegalWord_iff_of_formatK (.inl (opcodeBits_eq_iff.1 h))]
    exact exists_decodeK_eq_ok_iff
  · rw [not_illegalWord_iff_of_formatK (.inr (opcodeBits_eq_iff.1 h))]
    exact exists_decodeK_eq_ok_iff
  · rw [not_illegalWord_iff_of_formatN (fun h => h1 (opcodeBits_eq_iff.2 h)) (fun h => h2 (opcodeBits_eq_iff.2 h))]
    exact exists_decodeN_eq_ok_iff h1 h2

/-! ## The pseudo-commands -/

theorem toNat_shiftLeft_or (r : BitVec 16) {c : BitVec 32} (hc : c.toNat < 2 ^ 16) :
    (r.setWidth 32 <<< 16 ||| c).toNat = r.toNat * 2 ^ 16 + c.toNat := by
  have hr : r.toNat * 2 ^ 16 < 2 ^ 32 := by omega
  rw [BitVec.toNat_or, BitVec.toNat_shiftLeft, BitVec.toNat_setWidth_of_le (by decide), Nat.shiftLeft_eq,
    Nat.mod_eq_of_lt hr, Nat.mul_comm, Nat.two_pow_add_eq_or_of_lt hc]

/-- ROUNDS above the fields DW = 1 and OPC (R90). -/
theorem encodeK_rounds_eq (opc : BitVec 8) (r : BitVec 16) :
    encodeK opc { wsl := 0, dw := true, dr := false, rounds := r } =
      r.setWidth 32 <<< 16 ||| (0x00000800#32 + opc.setWidth 32) := by
  have hlow : (0x00000800#32 + opc.setWidth 32).toNat = 2 ^ 11 + opc.toNat := by
    rw [BitVec.toNat_add, BitVec.toNat_setWidth_of_le (by decide), BitVec.toNat_ofNat]
    omega
  apply BitVec.eq_of_toNat_eq
  rw [toNat_shiftLeft_or r (by omega), hlow, toNat_encodeK]
  simp [Nat.add_assoc]

end Sys2Proof
end

section
/-! PROOF. The obligations of 30_encoding.md. -/

namespace Sys2Proof.Laws

open Sys2Proof.Machine Sys2Proof.Claims

/-- Settles O1: format K reads its fields back, and a format-N opcode names one command. -/
theorem decodeEncodeRoundTrip : Obligations.DecodeEncodeRoundTrip := by
  intro i hwf
  cases hk : keySetupCommand i with
  | true =>
    match i, hk with
    | .keyset k, _ => exact (decode_of_keyset (OpcodeBits.keyset k)).trans (decodeK_encodeK _ hwf)
    | .keysetb k, _ => exact (decode_of_keysetb (OpcodeBits.keysetb k)).trans (decodeK_encodeK _ hwf)
  | false =>
    obtain ⟨hopc, hrsv⟩ := encodeN_eq_iff.1 (encode_eq_encodeN hk).symm
    obtain ⟨-, h1, h2⟩ := opcode_of_formatN hk
    rw [decode_of_formatN (hopc ▸ h1) (hopc ▸ h2)]
    exact decodeN_eq_ok_iff.2 ⟨opcodeN_eq_some_iff.2 ⟨hk, hopc.symm⟩, hrsv⟩

/-- Settles O2: the fields the decoder reads, with RSV = 0, are the whole word. -/
theorem encodeDecodeRoundTrip : Obligations.EncodeDecodeRoundTrip := by
  intro w i h
  obtain ⟨hopc, e⟩ | ⟨hopc, e⟩ | ⟨-, e⟩ := decode_cases w <;> rw [e] at h
  · obtain ⟨hrsv, hwf, rfl⟩ := decodeK_eq_ok_iff.1 h
    exact ⟨hwf, encodeK_eq_iff.2 ⟨hopc, hrsv, rfl⟩⟩
  · obtain ⟨hrsv, hwf, rfl⟩ := decodeK_eq_ok_iff.1 h
    exact ⟨hwf, encodeK_eq_iff.2 ⟨hopc, hrsv, rfl⟩⟩
  · obtain ⟨hmap, hrsv⟩ := decodeN_eq_ok_iff.1 h
    obtain ⟨hk, hopc⟩ := opcodeN_eq_some_iff.1 hmap
    exact ⟨wellFormed_of_formatN hk, (encode_eq_encodeN hk).trans (encodeN_eq_iff.2 ⟨hopc.symm, hrsv⟩)⟩

/-- Settles O3: the decoder refuses exactly the illegal words, and the step branches on the decoder alone. -/
theorem illegalWordsRaiseIllegalCommand : Obligations.IllegalWordsRaiseIllegalCommand := by
  intro s w p rest hhost
  cases hd : decode w with
  | error d =>
    have hillegal : IllegalWord w := not_imp_comm.1 exists_decode_eq_ok_iff.2 (by simp [hd])
    exact ⟨fun _ => step_of_illegal hhost hd, fun hlegal => absurd hillegal hlegal⟩
  | ok i =>
    have hlegal : ¬ IllegalWord w := exists_decode_eq_ok_iff.1 ⟨i, hd⟩
    exact ⟨fun hillegal => absurd hillegal hlegal, fun _ => ⟨i, rfl, step_of_command hhost hd⟩⟩

/-- Settles O4: the decoder run on each word. -/
theorem sampleWordsDecode : Obligations.SampleWordsDecode :=
  ⟨rfl, rfl, rfl, rfl, rfl, rfl, rfl, rfl, rfl, rfl, rfl, rfl, rfl, rfl⟩

/-- Settles O5: without rounds the word is fixed, and with them `encodeK_rounds_eq` gives it. -/
theorem pseudoCommandWords : Obligations.PseudoCommandWords :=
  ⟨rfl, rfl, fun r => ⟨encodeK_rounds_eq 0x01#8 r, encodeK_rounds_eq 0x02#8 r⟩⟩

end Sys2Proof.Laws
end

section
/-! PROOF. What the rules of a command's encoding and payload come to, for every command: the one word of format N
(30_encoding.md R82, R85) and the payload check of each operand form (60_exceptions.md R306). -/

namespace Sys2Proof.Laws

open Sys2Proof.Machine Sys2Proof.Claims

variable {i : Instr} {s : State} {w : BitVec 32}

/-- A format-N command has one word, by the two round trips of the encoding. -/
theorem hasOnlyWord_of_encode_eq (hk : keySetupCommand i = false) (he : encode i = w) : HasOnlyWord i w := by
  intro w'
  constructor
  · intro hd
    obtain ⟨-, henc⟩ := encodeDecodeRoundTrip w' i hd
    exact henc.symm.trans he
  · rintro rfl
    exact he ▸ decodeEncodeRoundTrip i (wellFormed_of_formatN hk)

theorem withBytes_of_malformed {ok : Nat → Bool} {k : List Byte → State} (hkind : declaredIn i = .bytes)
    (hrule : ∀ n, lengthRule i n = ok n) (hmal : Malformed i s) : withBytes ok s k = rejected s 0x06#8 := by
  obtain ⟨bs, hin, hok, hadm, -⟩ | ⟨-, e⟩ := withBytes_cases ok s k
  · simp [Malformed, hin, hkind, hrule, Payload.kind, Payload.length, hok, hadm] at hmal
  · exact e

theorem withWords_of_malformed {k : List Word → State} (hkind : declaredIn i = .words)
    (hrule : ∀ n, lengthRule i n = true) (hmal : Malformed i s) : withWords s k = rejected s 0x06#8 := by
  obtain ⟨ws, hin, hadm, -⟩ | ⟨-, e⟩ := withWords_cases s k
  · simp [Malformed, hin, hkind, hrule, Payload.kind, Payload.length, hadm] at hmal
  · exact e

theorem withTwoWords_of_malformed {k : Word → Word → State} (hkind : declaredIn i = .words)
    (hrule : ∀ n, lengthRule i n = (n == 2)) (hmal : Malformed i s) :
    withTwoWords s k = rejected s 0x06#8 := by
  obtain ⟨a, b, hin, hadm, -⟩ | ⟨-, e⟩ := withTwoWords_cases s k
  · simp [Malformed, hin, hkind, hrule, Payload.kind, Payload.length, hadm] at hmal
  · exact e

/-- `withTwoWords` passes on the two words of an admitted payload. -/
theorem withTwoWords_of {k : Word → Word → State} {a b : Word} (hin : s.input = .words [a, b])
    (hadm : Admits s 2) : withTwoWords s k = k a b :=
  withWords_of s (twoWords s k) [a, b] hin hadm

end Sys2Proof.Laws
end

section
/-! PROOF. The rotations on numbers and as inverses of each other (41_word_arith.md R111 to R113). They are the
library's rotations, whose bits it gives. -/

namespace Sys2Proof.Machine

open Sys2Proof.Claims

theorem rotl_eq_rotateLeft (x : Word) (n : Nat) : rotl x n = x.rotateLeft n := by
  rw [rotl, BitVec.rotateLeft_def]
  split
  · next h => simp [h, BitVec.ushiftRight_eq_zero]
  · rfl

theorem rotr_eq_rotateRight (x : Word) (n : Nat) : rotr x n = x.rotateRight n := by
  rw [rotr, BitVec.rotateRight_def]
  split
  · next h => simp [h]
  · rfl

/-- The low `64 - k` bits of `x` moved up by `k`, and the `k` bits above them in the room this makes. -/
theorem shiftLeft_or_shiftRight_eq {x k : Nat} (hx : x < 2 ^ 64) (hk : k ≤ 64) :
    x <<< k % 2 ^ 64 ||| x >>> (64 - k) = x * 2 ^ k % 2 ^ 64 + x / 2 ^ (64 - k) := by
  have hsplit : 2 ^ 64 = 2 ^ k * 2 ^ (64 - k) := by rw [← Nat.pow_add, Nat.add_sub_cancel' hk]
  have hhigh : x / 2 ^ (64 - k) < 2 ^ k := Nat.div_lt_of_lt_mul (by rwa [Nat.mul_comm, ← hsplit])
  rw [Nat.shiftLeft_eq, Nat.shiftRight_eq_div_pow, Nat.mul_comm x, hsplit, Nat.mul_mod_mul_left,
    Nat.two_pow_add_eq_or_of_lt hhigh]

theorem toNat_rotl (x : Word) (n : Nat) : (rotl x n).toNat = rotlNat x.toNat (n % 64) := by
  rw [rotl_eq_rotateLeft, BitVec.toNat_rotateLeft]
  exact shiftLeft_or_shiftRight_eq x.isLt (by omega)

/-- A right rotation by `k` is a left rotation by `64 - k`. -/
theorem toNat_rotr (x : Word) (n : Nat) : (rotr x n).toNat = rotrNat x.toNat (n % 64) := by
  have hk : 64 - (64 - n % 64) = n % 64 := by omega
  rw [rotr_eq_rotateRight, BitVec.toNat_rotateRight, rotrNat, Nat.or_comm, Nat.add_comm]
  simpa only [hk] using shiftLeft_or_shiftRight_eq x.isLt (Nat.sub_le 64 (n % 64))

/-- Bit `j` of the result comes from bit `j + s mod 64` of the left rotation, which is bit `j` of the word. -/
theorem rotr_rotl (x : Word) (s : Nat) : rotr (rotl x s) s = x := by
  rw [rotl_eq_rotateLeft, rotr_eq_rotateRight]
  ext j hj
  rw [BitVec.getElem_rotateRight]
  split
  · rw [BitVec.getElem_rotateLeft, dif_neg (by omega)]
    congr 1
    omega
  · rw [BitVec.getElem_rotateLeft, dif_pos (by omega)]
    congr 1
    omega

end Sys2Proof.Machine
end

section
/-! PROOF. The converter (41_word_arith.md R117, R118): words as numbers of bytes and back, and what Words(bytes)
holds at each place. -/

namespace Sys2Proof.Machine

open Sys2Proof.Claims

/-! ## Bytes of one word -/

@[simp] theorem numberOfBytes_nil : numberOfBytes [] = 0 := rfl

@[simp] theorem numberOfBytes_cons (b : Byte) (bs : List Byte) :
    numberOfBytes (b :: bs) = b.toNat + 256 * numberOfBytes bs := Nat.ofDigits_cons ..

@[simp] theorem numberOfBytes_append_zeros (bs : List Byte) (n : Nat) :
    numberOfBytes (bs ++ List.replicate n 0#8) = numberOfBytes bs := by
  simp [numberOfBytes]

theorem byteDigits_lt (bs : List Byte) : ∀ d ∈ bs.map BitVec.toNat, d < 256 :=
  List.forall_mem_map.2 fun b _ => b.isLt

theorem numberOfBytes_lt (bs : List Byte) : numberOfBytes bs < 256 ^ bs.length := by
  simpa [numberOfBytes] using Nat.ofDigits_lt_base_pow_length (by decide) (byteDigits_lt bs)

theorem numberOfBytes_inj {bs cs : List Byte} (hlen : bs.length = cs.length)
    (h : numberOfBytes bs = numberOfBytes cs) : bs = cs := by
  exact List.map_injective_iff.2 (fun _ _ => BitVec.eq_of_toNat_eq)
    (Nat.ofDigits_inj_of_len_eq (by decide) (by simpa using hlen) (byteDigits_lt bs) (byteDigits_lt cs) h)

theorem toNat_leWord {bs : List Byte} (h : bs.length ≤ 8) : (leWord bs).toNat = numberOfBytes bs := by
  induction bs with
  | nil => rfl
  | cons b bs ih =>
    have hbs : numberOfBytes bs < 256 ^ 7 :=
      (numberOfBytes_lt bs).trans_le (Nat.pow_le_pow_right (by decide) (Nat.le_of_succ_le_succ h))
    have ih := ih (Nat.le_of_succ_le h)
    rw [leWord, BitVec.toNat_add, BitVec.toNat_setWidth_of_le (by decide), BitVec.toNat_shiftLeft, ih,
      Nat.shiftLeft_eq, numberOfBytes_cons]
    omega

theorem extractLsb'_eq_ofNat_div (w : Word) (k : Nat) :
    w.extractLsb' (8 * k) 8 = BitVec.ofNat 8 (w.toNat / 256 ^ k) := by
  apply BitVec.eq_of_toNat_eq
  rw [BitVec.extractLsb'_toNat, Nat.shiftRight_eq_div_pow, Nat.pow_mul, BitVec.toNat_ofNat]

theorem leBytes_eq_bytesOfNumber (w : Word) : leBytes w = bytesOfNumber w.toNat :=
  calc leBytes w
      = (List.range 8).map fun k => w.extractLsb' (8 * k) 8 := rfl
    _ = bytesOfNumber w.toNat := by simp only [extractLsb'_eq_ofNat_div, bytesOfNumber]

theorem numberOfBytes_bytesOfNumber (n : Nat) : numberOfBytes (bytesOfNumber n) = n % 2 ^ 64 := by
  simp [bytesOfNumber, List.range_succ]
  omega

theorem leWord_leBytes (w : Word) : leWord (leBytes w) = w := by
  apply BitVec.eq_of_toNat_eq
  rw [toNat_leWord (by simp), leBytes_eq_bytesOfNumber, numberOfBytes_bytesOfNumber, Nat.mod_eq_of_lt w.isLt]

/-- Eight bytes are determined by their number, and a word's bytes have the word's number. -/
theorem leBytes_leWord {bs : List Byte} (h : bs.length = 8) : leBytes (leWord bs) = bs := by
  have hnum := congrArg BitVec.toNat (leWord_leBytes (leWord bs))
  rw [toNat_leWord (by simp), toNat_leWord h.le] at hnum
  exact numberOfBytes_inj (by simp [h]) hnum

/-! ## Bytes of all words -/

theorem getElem?_leWords {c m : Nat} (bs : List Byte) (h : m < c) :
    (leWords c bs)[m]? = some (leWord ((bs.drop (8 * m)).take 8)) := by
  induction c generalizing m bs with
  | zero => omega
  | succ c ih =>
    cases m with
    | zero => rfl
    | succ m =>
      rw [leWords, List.getElem?_cons_succ, ih _ (by omega), List.drop_drop]
      congr 4
      omega

theorem toNat_getElem?_bytesToWords {m : Nat} (bs : List Byte) (h : m < (bytesToWords bs).length) :
    ((bytesToWords bs)[m]?).map BitVec.toNat = some (numberOfBytes ((bs.drop (8 * m)).take 8)) := by
  have hm : m < wordCount bs.length := by simpa [wordCount] using h
  rw [bytesToWords, getElem?_leWords _ hm, Option.map_some, toNat_leWord (List.length_take_le ..)]
  simp only [List.drop_append, List.take_append, List.drop_replicate, List.take_replicate,
    numberOfBytes_append_zeros]

/-- Whole words need no zero-fill. -/
theorem bytesToWords_of_length_eq {bs : List Byte} {c : Nat} (h : bs.length = 8 * c) :
    bytesToWords bs = leWords c bs := by
  have hc : wordCount (8 * c) = c := by unfold wordCount; omega
  simp [bytesToWords, h, hc]

theorem leWords_wordsToBytes (ws : List Word) : leWords ws.length (wordsToBytes ws) = ws := by
  induction ws with
  | nil => rfl
  | cons w ws ih =>
    rw [wordsToBytes_cons, List.length_cons, leWords, List.take_left' (length_leBytes w),
      List.drop_left' (length_leBytes w), leWord_leBytes, ih]

theorem wordsToBytes_leWords {c : Nat} {bs : List Byte} (h : bs.length = 8 * c) :
    wordsToBytes (leWords c bs) = bs := by
  induction c generalizing bs with
  | zero => exact (List.eq_nil_of_length_eq_zero h).symm
  | succ c ih =>
    have hfirst : leBytes (leWord (bs.take 8)) = bs.take 8 := leBytes_leWord (by simp; omega)
    have hrest : wordsToBytes (leWords c (bs.drop 8)) = bs.drop 8 := ih (by simp; omega)
    rw [leWords, wordsToBytes_cons, hfirst, hrest, List.take_append_drop]

theorem wordsToBytes_eq_flatMap (ws : List Word) :
    wordsToBytes ws = ws.flatMap fun w => bytesOfNumber w.toNat := by
  simp only [wordsToBytes, ← leBytes_eq_bytesOfNumber]

end Sys2Proof.Machine
end

section
/-! PROOF. The obligations of 41_word_arith.md. -/

namespace Sys2Proof.Laws

open Sys2Proof.Machine Sys2Proof.Claims

/-- A command that takes two words and answers the word of number `n`. -/
theorem withTwoWords_respond {s : State} {f : Word → Word → Word} {a b : Word} {n : Nat}
    (hin : s.input = .words [a, b]) (hadm : Admits s 2) (hn : (f a b).toNat = n) :
    withTwoWords s (fun a b => respond (.words [f a b]) s) = answered s (.words [BitVec.ofNat 64 n]) := by
  rw [withTwoWords_of hin hadm, respond_eq_answered, ← hn, BitVec.ofNat_toNat, BitVec.setWidth_eq]

/-- Settles O26: the operations of the library on numbers. -/
theorem wordArithmeticRules : Obligations.WordArithmeticRules := by
  refine ⟨hasOnlyWord_of_encode_eq rfl rfl, hasOnlyWord_of_encode_eq rfl rfl, hasOnlyWord_of_encode_eq rfl rfl,
    fun _ h => congrArg _ (withTwoWords_of_malformed rfl (fun _ => rfl) h),
    fun _ h => congrArg _ (withTwoWords_of_malformed rfl (fun _ => rfl) h),
    fun _ h => congrArg _ (withTwoWords_of_malformed rfl (fun _ => rfl) h), fun s a b hin hadm => ⟨?_, ?_, ?_⟩⟩
  · exact congrArg _ (withTwoWords_respond hin hadm (BitVec.toNat_add a b))
  · have hsub : (a - b).toNat = (a.toNat + 2 ^ 64 - b.toNat) % 2 ^ 64 := by
      rw [BitVec.toNat_sub', ← Nat.add_sub_assoc b.isLt.le]
    exact congrArg _ (withTwoWords_respond hin hadm hsub)
  · exact congrArg _ (withTwoWords_respond hin hadm (BitVec.toNat_xor a b))

/-- Settles O27: the rotations on numbers, the amount being the second word mod 64. -/
theorem rotationRules : Obligations.RotationRules := by
  refine ⟨hasOnlyWord_of_encode_eq rfl rfl, hasOnlyWord_of_encode_eq rfl rfl,
    fun _ h => congrArg _ (withTwoWords_of_malformed rfl (fun _ => rfl) h),
    fun _ h => congrArg _ (withTwoWords_of_malformed rfl (fun _ => rfl) h), fun s x n hin hadm => ?_⟩
  have hamount : amount n % 64 = n.toNat % 64 := by rw [amount_eq, Nat.mod_mod]
  exact ⟨congrArg _ (withTwoWords_respond hin hadm (hamount ▸ toNat_rotl x (amount n))),
    congrArg _ (withTwoWords_respond hin hadm (hamount ▸ toNat_rotr x (amount n)))⟩

/-- Settles O28: two laws of the word type, and the rotations as inverses. -/
theorem wordLawsOfDecrypt : Obligations.WordLawsOfDecrypt := fun a b s =>
  ⟨BitVec.add_sub_cancel a b, by rw [BitVec.xor_assoc, BitVec.xor_self, BitVec.xor_zero], rotr_rotl a s⟩

/-- Settles O29: what Words(bytes) holds at each place. -/
theorem bytesToWordsRule : Obligations.BytesToWordsRule :=
  ⟨hasOnlyWord_of_encode_eq rfl rfl, fun _ h => congrArg _ (withBytes_of_malformed rfl (fun _ => rfl) h),
    fun s bs hin hadm => ⟨bytesToWords bs, congrArg _ (withBytes_of anyLength s _ bs hin rfl hadm),
      length_bytesToWords bs, fun _ => toNat_getElem?_bytesToWords bs⟩⟩

/-- Settles O30: the bytes of each word are those of its number. -/
theorem wordsToBytesRule : Obligations.WordsToBytesRule := by
  refine ⟨hasOnlyWord_of_encode_eq rfl rfl, fun _ h => congrArg _ (withWords_of_malformed rfl (fun _ => rfl) h),
    fun s ws hin hadm => ?_⟩
  rw [← wordsToBytes_eq_flatMap]
  exact congrArg _ (withWords_of s _ ws hin hadm)

/-- Settles O31: whole words need no zero-fill, and word by word the bytes and the number determine each other. -/
theorem converterRoundTrip : Obligations.ConverterRoundTrip := by
  constructor
  · intro ws
    rw [bytesToWords_of_length_eq (length_wordsToBytes ws), leWords_wordsToBytes]
  · intro bs h
    have hlen : bs.length = 8 * (bs.length / 8) := by omega
    rw [bytesToWords_of_length_eq hlen, wordsToBytes_leWords hlen]

end Sys2Proof.Laws
end

section
/-! PROOF. The key schedule against the spec's loop on numbers (42_key_schedule.md R141 to R143): after every number
of iterations the working values are the words of the reference's numbers. -/

namespace Sys2Proof.Machine

open Sys2Proof.Laws Sys2Proof.Claims

/-! ## Lists of words as numbers -/

/-- `ws` is `n` words, word `i` being the number `N i`. -/
structure Holds (ws : List Word) (n : Nat) (N : Nat → Nat) : Prop where
  length_eq : ws.length = n
  toNat_eq : ∀ i (h : i < ws.length), ws[i].toNat = N i

variable {ws : List Word} {n : Nat} {N : Nat → Nat}

theorem holds_of_getElem? (hlen : ws.length = n)
    (h : ∀ i, i < n → (ws[i]?).map BitVec.toNat = some (N i)) : Holds ws n N where
  length_eq := hlen
  toNat_eq i hi := by simpa [hi] using h i (hlen ▸ hi)

theorem Holds.set (h : Holds ws n N) {i j : Nat} (hij : i = j) {w : Word} {x : Nat} (hw : w.toNat = x) :
    Holds (ws.set i w) n (Function.update N j x) where
  length_eq := by simp [h.length_eq]
  toNat_eq k hk := by
    subst hij
    rw [List.getElem_set, Function.update_apply]
    by_cases hik : i = k
    · rw [if_pos hik, if_pos hik.symm, hw]
    · rw [if_neg hik, if_neg (Ne.symm hik), h.toNat_eq]

theorem Holds.eq_map_range (h : Holds ws n N) : ws = (List.range n).map fun i => BitVec.ofNat 64 (N i) := by
  refine List.ext_getElem (by simp [h.length_eq]) fun i hi _ => ?_
  simp [← h.toNat_eq i hi]

/-- Inside the list a table read is the number held there. -/
theorem Holds.toNat_subkey (h : Holds ws n N) {i : Nat} (hi : i < n) : (subkey ws i).toNat = N i := by
  have hlt : i < ws.length := h.length_eq ▸ hi
  rw [subkey_of_lt ws i hlt, h.toNat_eq]

/-! ## The start of the loop (R141) -/

/-- Word `i` is `w + i * Q64`; the number of Q64 is a variable so that nothing computes with it. -/
theorem toNat_getElem?_initTable {Q n i : Nat} (hQ : q64.toNat = Q) (w : Word) (h : i < n) :
    ((initTable n w)[i]?).map BitVec.toNat = some ((w.toNat + i * Q) % 2 ^ 64) := by
  induction n generalizing w i with
  | zero => omega
  | succ n ih =>
    cases i with
    | zero =>
      rw [initTable, List.getElem?_cons_zero, Option.map_some, Nat.zero_mul, Nat.add_zero, Nat.mod_eq_of_lt w.isLt]
    | succ i =>
      rw [initTable, List.getElem?_cons_succ, ih _ (by omega), BitVec.toNat_add, hQ, Nat.mod_add_mod, Nat.succ_mul,
        Nat.add_comm (i * Q), Nat.add_assoc]

/-! ## One iteration (R142) -/

theorem toNat_stored (store : KsStore) (sum rotated : Word) :
    (stored store sum rotated).toNat = if store = .sumOnly then sum.toNat else rotated.toNat := by
  cases store <;> rfl

theorem toNat_add₃ (x y z : Word) : (x + y + z).toNat = (x.toNat + y.toNat + z.toNat) % 2 ^ 64 := by
  simp only [BitVec.toNat_add, Nat.mod_add_mod]

/-- The rotation amount of a sum is the sum of the numbers mod 64. -/
theorem amount_add (x y : Word) : amount (x + y) % 64 = (x.toNat + y.toNat) % 64 := by
  rw [amount_eq, BitVec.toNat_add]
  omega

/-- The S half of the reference's iteration number `n`: S and A are new, L and B are still old. -/
def tableMixed (store : KsStore) (T n : Nat) (x : Mixing) : Mixing :=
  let sum := (x.S (n % T) + x.A + x.B) % 2 ^ 64
  let a := rotlNat sum 3
  { x with S := Function.update x.S (n % T) (if store = .sumOnly then sum else a), A := a }

/-- The L half of the reference's iteration number `n`, after its S half. -/
def keyMixed (store : KsStore) (c n : Nat) (x : Mixing) : Mixing :=
  if c = 0 then x
  else
    let sum := (x.L (n % c) + x.A + x.B) % 2 ^ 64
    let b := rotlNat sum ((x.A + x.B) % 64)
    { x with L := Function.update x.L (n % c) (if store = .sumOnly then sum else b), B := b }

theorem mixing_succ (store : KsStore) (T c : Nat) (L : Nat → Nat) (n : Nat) :
    mixing store T c L (n + 1) = keyMixed store c n (tableMixed store T n (mixing store T c L n)) := by
  rw [mixing, keyMixed]
  split <;> rfl

/-- `m` holds the working values `x` of the reference, `p` S halves and `q` L halves being done. The index j moves
only where there are key words (R143). -/
structure Simulates (T c p q : Nat) (m : Mix) (x : Mixing) : Prop where
  table : Holds m.s T x.S
  key : Holds m.l c x.L
  a : m.a.toNat = x.A
  b : m.b.toNat = x.B
  i : m.i = p % T
  j : 0 < c → m.j = q % c

variable {T c p q : Nat} {m : Mix} {x : Mixing}

theorem mixTable_i (store : KsStore) (m : Mix) : (mixTable store m).i = (m.i + 1) % m.s.length := rfl

theorem simulates_mixStart (store : KsStore) (T : Nat) (key : List Byte) :
    Simulates T ((key.length + 7) / 8) 0 0 (mixStart T (bytesToWords key))
      (mixing store T ((key.length + 7) / 8) (keyNumbers key) 0) where
  table := holds_of_getElem? (length_initTable T p64) fun _ => toNat_getElem?_initTable rfl p64
  key := holds_of_getElem? (length_bytesToWords key) fun _ hm =>
    toNat_getElem?_bytesToWords key (length_bytesToWords key ▸ hm)
  a := rfl
  b := rfl
  i := (Nat.zero_mod T).symm
  j _ := (Nat.zero_mod _).symm

theorem Simulates.mixTable (h : Simulates T c p q m x) (store : KsStore) (hT : 0 < T) :
    Simulates T c (p + 1) q (mixTable store m) (tableMixed store T p x) := by
  have hsum : (subkey m.s m.i + m.a + m.b).toNat = (x.S (p % T) + x.A + x.B) % 2 ^ 64 := by
    rw [toNat_add₃, h.i, h.table.toNat_subkey (Nat.mod_lt p hT), h.a, h.b]
  have ha : (rotl (subkey m.s m.i + m.a + m.b) 3).toNat = rotlNat ((x.S (p % T) + x.A + x.B) % 2 ^ 64) 3 := by
    rw [toNat_rotl, hsum]
  exact {
    table := h.table.set h.i (by rw [toNat_stored, hsum, ha])
    key := h.key
    a := ha
    b := h.b
    i := by rw [mixTable_i, h.i, h.table.length_eq, Nat.mod_add_mod]
    j := h.j }

theorem Simulates.mixKey (h : Simulates T c p q m x) (store : KsStore) :
    Simulates T c p (q + 1) (mixKey store m) (keyMixed store c q x) := by
  have hlen := h.key.length_eq
  rw [keyMixed]
  have hj := h.j
  obtain ⟨hle, e⟩ | ⟨w, hw, e⟩ := mixKey_cases store m <;> rw [e]
  · have hc : c = 0 := by
      by_contra hc
      have := Nat.mod_lt q (Nat.pos_of_ne_zero hc)
      omega
    rw [if_pos hc]
    exact { h with j := fun hpos => absurd hc hpos.ne' }
  · obtain ⟨hlt, rfl⟩ := List.getElem?_eq_some_iff.1 hw
    have hc : 0 < c := by omega
    have hsum : (m.l[m.j] + m.a + m.b).toNat = (x.L (q % c) + x.A + x.B) % 2 ^ 64 := by
      simp only [toNat_add₃, h.key.toNat_eq, hj hc, h.a, h.b]
    have hb : (rotl (m.l[m.j] + m.a + m.b) (amount (m.a + m.b))).toNat =
        rotlNat ((x.L (q % c) + x.A + x.B) % 2 ^ 64) ((x.A + x.B) % 64) := by
      rw [toNat_rotl, hsum, amount_add, h.a, h.b]
    rw [if_neg hc.ne']
    exact {
      table := h.table
      key := h.key.set (hj hc) (by rw [toNat_stored, hsum, hb])
      a := h.a
      b := hb
      i := h.i
      j := fun _ => by simp [hj hc, hlen] }

theorem simulates_mixLoop (store : KsStore) {T : Nat} (hT : 0 < T) (key : List Byte) (n : Nat) :
    Simulates T ((key.length + 7) / 8) n n (mixLoop store n (mixStart T (bytesToWords key)))
      (mixing store T ((key.length + 7) / 8) (keyNumbers key) n) := by
  induction n with
  | zero => exact simulates_mixStart store T key
  | succ n ih =>
    rw [mixLoop_succ, mixing_succ]
    exact (ih.mixTable store hT).mixKey store

/-! ## An empty key (R143) -/

theorem mixKey_of_no_key {m : Mix} (store : KsStore) (h : m.l = []) : mixKey store m = m := by
  obtain ⟨-, e⟩ | ⟨w, hw, -⟩ := mixKey_cases store m
  · exact e
  · simp [h] at hw

/-- Without key words the loop never reaches L or B. -/
theorem mixLoop_of_no_key {m : Mix} (store : KsStore) (n : Nat) (h : m.l = []) :
    (mixLoop store n m).l = [] ∧ (mixLoop store n m).b = m.b := by
  induction n with
  | zero => exact ⟨h, rfl⟩
  | succ n ih =>
    obtain ⟨hl, hb⟩ := ih
    have hl' : (mixTable store (mixLoop store n m)).l = [] := hl
    rw [mixLoop_succ, mixKey_of_no_key store hl']
    exact ⟨hl', hb⟩

end Sys2Proof.Machine
end

section
/-! PROOF. What the rules of the key commands share: the payload check of Text (60_exceptions.md R306), the KEYVALID
check after a payload check (R307), and the outcome of a key setup once its payload is taken (42_key_schedule.md R145
to R149). -/

namespace Sys2Proof.Laws

open Sys2Proof.Machine Sys2Proof.Claims

variable {i : Instr} {s : State} {k : KFields}

theorem withText_of_malformed {f : List CodeUnit → State} (hkind : declaredIn i = .text)
    (hrule : ∀ n, lengthRule i n = true) (hmal : Malformed i s) : withText s f = rejected s 0x06#8 := by
  obtain ⟨us, hin, hadm, -⟩ | ⟨-, e⟩ := withText_cases s f
  · simp [Malformed, hin, hkind, hrule, Payload.kind, Payload.length, hadm] at hmal
  · exact e

/-- A keyed command on bytes, its payload well formed, gets as far as the KEYVALID check. -/
theorem withBytes_withKey_of_unkeyed {ok : Nat → Bool} {f : List Byte → State} (hkind : declaredIn i = .bytes)
    (hrule : ∀ n, lengthRule i n = ok n) (hwell : ¬ Malformed i s) (h0 : s.keyValid = 0#1) :
    withBytes ok s (fun bs => withKey s (f bs)) = rejected s 0x07#8 := by
  obtain ⟨bs, -, -, -, e⟩ | ⟨hbad, -⟩ := withBytes_cases ok s fun bs => withKey s (f bs)
  · rw [e, withKey_eq, if_neg (by simp [h0])]
  · rw [← hkind, ← hrule] at hbad
    exact absurd hbad hwell

theorem exists_word_of_keyset (hwf : k.wellFormed = true) :
    ∃ w : BitVec 32, w.toNat % 256 = 0x01 ∧ decode w = .ok (.keyset k) :=
  ⟨encode (.keyset k), opcodeBits_eq_iff.1 (OpcodeBits.keyset k), decodeEncodeRoundTrip _ hwf⟩

theorem exists_word_of_keysetb (hwf : k.wellFormed = true) :
    ∃ w : BitVec 32, w.toNat % 256 = 0x02 ∧ decode w = .ok (.keysetb k) :=
  ⟨encode (.keysetb k), opcodeBits_eq_iff.1 (OpcodeBits.keysetb k), decodeEncodeRoundTrip _ hwf⟩

/-- A key setup whose payload gives `key` ends by the checks of `keySetup`, in their order. -/
theorem keySetupOutcome_of_exec {key : List Byte} (h : exec i s = .next (keySetup k key s)) :
    KeySetupOutcome i k s key := by
  rw [keySetup_cases] at h
  refine ⟨fun hr => ?_, fun hr hr' hw => ?_, fun hr hr' hw hkey hpol => ?_, fun hr hr' hw hkey => ?_⟩
  · rwa [if_pos hr] at h
  · rwa [if_neg (by omega), if_pos hw] at h
  · rwa [if_neg (by omega), if_neg (not_not.2 hw), if_pos ⟨hkey, hpol⟩] at h
  · have hallowed : ¬ (key = [] ∧ s.build.emptyKey = .reject) := by
      rintro ⟨hnil, hpol⟩
      rcases hkey with hne | hacc
      · exact hne hnil
      · simp [hpol] at hacc
    rwa [if_neg (by omega), if_neg (not_not.2 hw), if_neg hallowed] at h

/-- A key setup never looks at the payload its key came from. -/
theorem keySetup_withInput (k : KFields) (key : List Byte) (s : State) (p : Payload) :
    keySetup k key { s with input := p } = { keySetup k key s with input := p } := by
  simp only [keySetup_cases]
  split
  · rfl
  split
  · rfl
  split <;> rfl

/-- Reading every word of a table of `n` words gives the table. -/
theorem map_subkey_range {S : List Word} {n : Nat} (h : S.length = n) : (List.range n).map (subkey S) = S := by
  subst h
  refine List.ext_getElem (by simp) fun i _ hi => ?_
  rw [List.getElem_map, List.getElem_range, subkey_of_lt S i hi]

end Sys2Proof.Laws
end

section
/-! PROOF. The obligations of 42_key_schedule.md. -/

namespace Sys2Proof.Laws

open Sys2Proof.Machine Sys2Proof.Claims

/-- Settles O32: the outcome of a key setup on the text's bytes. -/
theorem keysetRule : Obligations.KeysetRule :=
  ⟨rfl, rfl, fun _ => exists_word_of_keyset,
    fun _ _ hmal => congrArg _ (withText_of_malformed rfl (fun _ => rfl) hmal),
    fun _ s us hin hadm => keySetupOutcome_of_exec (congrArg _ (withText_of s _ us hin hadm))⟩

/-- Settles O33: the outcome of a key setup on the payload's bytes. -/
theorem keysetbRule : Obligations.KeysetbRule :=
  ⟨rfl, fun _ => exists_word_of_keysetb,
    fun _ _ hmal => congrArg _ (withBytes_of_malformed rfl (fun _ => rfl) hmal),
    fun _ s bs hin hadm => keySetupOutcome_of_exec (congrArg _ (withBytes_of anyLength s _ bs hin rfl hadm))⟩

/-- Settles O34: the table after the last iteration is the reference's. -/
theorem keyScheduleIsTheSpecsLoop : Obligations.KeyScheduleIsTheSpecsLoop := by
  intro store key r
  have hloop := simulates_mixLoop store (T := 2 * (r + 1)) (by omega) key
  simpa only [keySchedule, tableLength, length_bytesToWords] using (hloop _).table.eq_map_range

/-- Settles O36: no bytes make no words, and without words the loop never reaches B. -/
theorem emptyKeyNeverUsesB : Obligations.EmptyKeyNeverUsesB := by
  refine ⟨rfl, fun store r => ⟨?_, fun n => ?_⟩⟩
  · have hcount : max (tableLength r) (bytesToWords []).length = 2 * (r + 1) := Nat.max_zero _
    rw [keySchedule, hcount]
    rfl
  · obtain ⟨-, hb⟩ := mixLoop_of_no_key store n (rfl : (mixStart (2 * (r + 1)) []).l = [])
    exact hb

/-- Settles O37: both payloads give the same key bytes, and the rest of the setup never looks at the payload. -/
theorem textKeyEqualsItsBytes : Obligations.TextKeyEqualsItsBytes := by
  intro k s us hin hadm hadm'
  refine ⟨keySetup k (utf8Encode us) s, congrArg _ (withText_of s _ us hin hadm), ?_⟩
  rw [← keySetup_withInput]
  exact congrArg _ (withBytes_of anyLength { s with input := .bytes (utf8Encode us) } _ _ rfl rfl hadm')

/-- Settles O38: the payload check and the four numbers, whatever KEYVALID is. -/
theorem cfgrdRule : Obligations.CfgrdRule := by
  refine ⟨hasOnlyWord_of_encode_eq rfl rfl, fun _ hmal => congrArg _ (withBytes_of_malformed rfl (fun _ => rfl) hmal),
    fun s hin => ?_⟩
  simp only [BitVec.ofNat_toNat, ← isKeyed_iff]
  exact congrArg _ (withBytes_of emptyLength s _ [] hin rfl (admits_zero s))

/-- Settles O39: under the register invariant the T words read are the whole table. -/
theorem skreadRule : Obligations.SkreadRule := by
  refine ⟨hasOnlyWord_of_encode_eq rfl rfl, fun _ hmal => congrArg _ (withBytes_of_malformed rfl (fun _ => rfl) hmal),
    fun _ hwell h0 => congrArg _ (withBytes_withKey_of_unkeyed rfl (fun _ => rfl) hwell h0),
    fun s hin hkeyed hregs => ?_⟩
  obtain ⟨-, -, -, hlen⟩ := hregs.1 hkeyed
  have hall : (List.range (tableLength s.cfgRounds.toNat)).map (subkey s.table) = s.table := map_subkey_range hlen
  calc exec .skread s
      = .next (withKey s (respond (.words ((List.range (tableLength s.cfgRounds.toNat)).map (subkey s.table))) s)) :=
        congrArg _ (withBytes_of emptyLength s _ [] hin rfl (admits_zero s))
    _ = .next (answered s (.words s.table)) := by rw [withKey_eq, if_pos hkeyed, hall, respond_eq_answered]

end Sys2Proof.Laws
end

section
/-! PROOF. The block transform on its two words (43_block_cipher.md R171, R173): the bytes of a block and its words,
and each round undone by its inverse. -/

namespace Sys2Proof.Machine

open Sys2Proof.Laws Sys2Proof.Claims

/-! ## A block as bytes and as words (20_memory.md R64) -/

theorem blockOfBytes_bytesOfBlock (x : Block) : blockOfBytes (bytesOfBlock x) = x :=
  congrArg₂ Block.mk (leWord_leBytes x.a) (leWord_leBytes x.b)

/-- Of at most 16 bytes, those after the first 8 are at most 8. -/
theorem blockOfBytes_eq {blk : List Byte} (h : blk.length ≤ 16) :
    blockOfBytes blk = { a := leWord (blk.take 8), b := leWord (blk.drop 8) } := by
  rw [blockOfBytes, List.take_of_length_le (i := 8) (l := blk.drop 8) (by simp; omega)]

theorem bytesOfBlock_blockOfBytes {blk : List Byte} (h : blk.length = 16) :
    bytesOfBlock (blockOfBytes blk) = blk := by
  rw [blockOfBytes_eq h.le, bytesOfBlock, leBytes_leWord (by simp [h]), leBytes_leWord (by simp [h]),
    List.take_append_drop]

/-! ## Decryption undoes encryption (R173) -/

variable (S : List Word) (r k : Nat) (x : Block)

/-- Decryption meets the two halves of a round in reverse order, each with the other word as encryption had it. -/
theorem decRound_encRound : decRound S k (encRound S k x) = x := by
  simp only [encRound, decRound, BitVec.add_sub_cancel, rotr_rotl, BitVec.xor_assoc, BitVec.xor_self, BitVec.xor_zero]

theorem decRounds_encRounds : decRounds S r (encRounds S r x) = x := by
  induction r with
  | zero => rfl
  | succ r ih => rw [encRounds, decRounds, decRound_encRound, ih]

theorem decryptWords_encryptWords : decryptWords S r (encryptWords S r x) = x := by
  simp only [encryptWords, decryptWords, decRounds_encRounds, BitVec.add_sub_cancel]

/-- There are finitely many blocks, so what undoes encryption on the left undoes it on the right. -/
theorem encryptWords_decryptWords : encryptWords S r (decryptWords S r x) = x := by
  have : Finite Block := .of_surjective (fun p : Word × Word => Block.mk p.1 p.2) fun y => ⟨(y.a, y.b), rfl⟩
  have hleft : Function.LeftInverse (decryptWords S r) (encryptWords S r) := decryptWords_encryptWords S r
  exact hleft.rightInverse_of_surjective (Finite.surjective_of_injective hleft.injective) x

theorem decryptBlock_encryptBlock {blk : List Byte} (h : blk.length = 16) :
    decryptBlock S r (encryptBlock S r blk) = blk := by
  rw [decryptBlock, encryptBlock, blockOfBytes_bytesOfBlock, decryptWords_encryptWords, bytesOfBlock_blockOfBytes h]

theorem encryptBlock_decryptBlock {blk : List Byte} (h : blk.length = 16) :
    encryptBlock S r (decryptBlock S r blk) = blk := by
  rw [encryptBlock, decryptBlock, blockOfBytes_bytesOfBlock, encryptWords_decryptWords, bytesOfBlock_blockOfBytes h]

end Sys2Proof.Machine
end

section
/-! PROOF. The block transform against the spec's rounds on numbers (43_block_cipher.md R170, R172): a table of `n`
words holds the numbers of its words, and inside it every round commutes with the step to numbers. -/

namespace Sys2Proof.Machine

open Sys2Proof.Laws Sys2Proof.Claims

/-! ## Words as numbers -/

theorem holds_tableNumbers (S : List Word) : Holds S S.length (tableNumbers S) :=
  holds_of_getElem? rfl fun i hi => by simp [tableNumbers, hi]

theorem toNat_sub (x y : Word) : (x - y).toNat = (x.toNat + 2 ^ 64 - y.toNat) % 2 ^ 64 := by
  rw [BitVec.toNat_sub', ← Nat.add_sub_assoc y.isLt.le]

theorem toNat_rotl_amount (x n : Word) : (rotl x (amount n)).toNat = rotlNat x.toNat (n.toNat % 64) := by
  rw [toNat_rotl, amount_eq, Nat.mod_mod]

theorem toNat_rotr_amount (x n : Word) : (rotr x (amount n)).toNat = rotrNat x.toNat (n.toNat % 64) := by
  rw [toNat_rotr, amount_eq, Nat.mod_mod]

/-- The numbers of A and B. -/
def Block.numbers (x : Block) : Nat × Nat := (x.a.toNat, x.b.toNat)

theorem numbers_blockOfBytes {blk : List Byte} (h : blk.length ≤ 16) :
    (blockOfBytes blk).numbers = (numberOfBytes (blk.take 8), numberOfBytes (blk.drop 8)) := by
  rw [blockOfBytes_eq h, Block.numbers, toNat_leWord (by simp), toNat_leWord (by simp; omega)]

theorem bytesOfBlock_eq (x : Block) :
    bytesOfBlock x = bytesOfNumber x.numbers.1 ++ bytesOfNumber x.numbers.2 := by
  rw [bytesOfBlock, leBytes_eq_bytesOfNumber, leBytes_eq_bytesOfNumber, Block.numbers]

/-! ## One round -/

/-- Encrypt round `k` on numbers. -/
def encRoundNumbers (S : Nat → Nat) (k : Nat) (y : Nat × Nat) : Nat × Nat :=
  let a := (rotlNat (y.1 ^^^ y.2) (y.2 % 64) + S (2 * k)) % 2 ^ 64
  (a, (rotlNat (y.2 ^^^ a) (a % 64) + S (2 * k + 1)) % 2 ^ 64)

/-- Decrypt round `k` on numbers. -/
def decRoundNumbers (S : Nat → Nat) (k : Nat) (y : Nat × Nat) : Nat × Nat :=
  let b := rotrNat ((y.2 + 2 ^ 64 - S (2 * k + 1)) % 2 ^ 64) (y.1 % 64) ^^^ y.1
  (rotrNat ((y.1 + 2 ^ 64 - S (2 * k)) % 2 ^ 64) (b % 64) ^^^ b, b)

theorem encryptNumbers_zero (S : Nat → Nat) (y : Nat × Nat) :
    encryptNumbers S 0 y = ((y.1 + S 0) % 2 ^ 64, (y.2 + S 1) % 2 ^ 64) := rfl

theorem encryptNumbers_succ (S : Nat → Nat) (k : Nat) (y : Nat × Nat) :
    encryptNumbers S (k + 1) y = encRoundNumbers S (k + 1) (encryptNumbers S k y) := rfl

theorem decryptNumbers_zero (S : Nat → Nat) (y : Nat × Nat) :
    decryptNumbers S 0 y = ((y.1 + 2 ^ 64 - S 0) % 2 ^ 64, (y.2 + 2 ^ 64 - S 1) % 2 ^ 64) := rfl

/-- Stated between functions: applied to a block, the unfolding is too deep a recursion for the kernel. -/
theorem decryptNumbers_succ (S : Nat → Nat) (k : Nat) :
    decryptNumbers S (k + 1) = decryptNumbers S k ∘ decRoundNumbers S (k + 1) := rfl

theorem encryptWords_zero (S : List Word) (x : Block) :
    encryptWords S 0 x = { a := x.a + subkey S 0, b := x.b + subkey S 1 } := rfl

theorem encryptWords_succ (S : List Word) (k : Nat) (x : Block) :
    encryptWords S (k + 1) x = encRound S (k + 1) (encryptWords S k x) := rfl

theorem decryptWords_zero (S : List Word) (x : Block) :
    decryptWords S 0 x = { a := x.a - subkey S 0, b := x.b - subkey S 1 } := rfl

theorem decryptWords_succ (S : List Word) (k : Nat) (x : Block) :
    decryptWords S (k + 1) x = decryptWords S k (decRound S (k + 1) x) := rfl

variable {S : List Word} {n : Nat} {N : Nat → Nat}

theorem Holds.numbers_encRound (h : Holds S n N) {k : Nat} (hk : 2 * k + 1 < n) (x : Block) :
    (encRound S k x).numbers = encRoundNumbers N k x.numbers := by
  have heven : (subkey S (2 * k)).toNat = N (2 * k) := h.toNat_subkey (by omega)
  have hodd : (subkey S (2 * k + 1)).toNat = N (2 * k + 1) := h.toNat_subkey hk
  simp only [encRound, encRoundNumbers, Block.numbers, BitVec.toNat_add, BitVec.toNat_xor, toNat_rotl_amount, heven,
    hodd]

theorem Holds.numbers_decRound (h : Holds S n N) {k : Nat} (hk : 2 * k + 1 < n) (x : Block) :
    (decRound S k x).numbers = decRoundNumbers N k x.numbers := by
  have heven : (subkey S (2 * k)).toNat = N (2 * k) := h.toNat_subkey (by omega)
  have hodd : (subkey S (2 * k + 1)).toNat = N (2 * k + 1) := h.toNat_subkey hk
  simp only [decRound, decRoundNumbers, Block.numbers, BitVec.toNat_xor, toNat_sub, toNat_rotr_amount, heven, hodd]

/-! ## All rounds and the bytes of a block -/

theorem Holds.numbers_encryptWords (h : Holds S n N) {r : Nat} (hr : 2 * r + 1 < n) (x : Block) :
    (encryptWords S r x).numbers = encryptNumbers N r x.numbers := by
  induction r with
  | zero =>
    rw [encryptWords_zero, encryptNumbers_zero]
    simp only [Block.numbers, BitVec.toNat_add, h.toNat_subkey (i := 0) (by omega), h.toNat_subkey (i := 1) hr]
  | succ r ih => rw [encryptWords_succ, encryptNumbers_succ, h.numbers_encRound hr, ih (by omega)]

theorem Holds.numbers_decryptWords (h : Holds S n N) {r : Nat} (hr : 2 * r + 1 < n) (x : Block) :
    (decryptWords S r x).numbers = decryptNumbers N r x.numbers := by
  induction r generalizing x with
  | zero =>
    rw [decryptWords_zero, decryptNumbers_zero]
    simp only [Block.numbers, toNat_sub, h.toNat_subkey (i := 0) (by omega), h.toNat_subkey (i := 1) hr]
  | succ r ih => rw [decryptWords_succ, decryptNumbers_succ, ih (by omega), h.numbers_decRound hr, Function.comp_apply]

theorem encryptBlock_eq {r : Nat} {blk : List Byte} (hS : S.length = 2 * (r + 1)) (hblk : blk.length = 16) :
    let y := encryptNumbers (tableNumbers S) r (numberOfBytes (blk.take 8), numberOfBytes (blk.drop 8))
    encryptBlock S r blk = bytesOfNumber y.1 ++ bytesOfNumber y.2 := by
  rw [encryptBlock, bytesOfBlock_eq, (holds_tableNumbers S).numbers_encryptWords (by omega),
    numbers_blockOfBytes hblk.le]

theorem decryptBlock_eq {r : Nat} {blk : List Byte} (hS : S.length = 2 * (r + 1)) (hblk : blk.length = 16) :
    let y := decryptNumbers (tableNumbers S) r (numberOfBytes (blk.take 8), numberOfBytes (blk.drop 8))
    decryptBlock S r blk = bytesOfNumber y.1 ++ bytesOfNumber y.2 := by
  rw [decryptBlock, bytesOfBlock_eq, (holds_tableNumbers S).numbers_decryptWords (by omega),
    numbers_blockOfBytes hblk.le]

end Sys2Proof.Machine
end

section
/-! PROOF. The obligations of 43_block_cipher.md. -/

namespace Sys2Proof.Laws

open Sys2Proof.Machine Sys2Proof.Claims

/-- A keyed command on bytes that passes both checks goes on with the payload. -/
theorem withBytes_withKey_of {ok : Nat → Bool} {s : State} {f : List Byte → State} {bs : List Byte}
    (hin : s.input = .bytes bs) (hok : ok bs.length = true) (hadm : Admits s bs.length) (hkeyed : s.keyValid = 1#1) :
    withBytes ok s (fun bs => withKey s (f bs)) = f bs := by
  rw [withBytes_of ok s _ bs hin hok hadm, withKey_eq, if_pos hkeyed]

theorem blockLength_of_le {n : Nat} (h : n ≤ 16) : blockLength n = true := decide_eq_true h

theorem length_zeroFill {bs : List Byte} (h : bs.length ≤ 16) : (zeroFill bs).length = 16 := by
  simp [zeroFill, h]

/-- Settles O42: on the two words every round is undone, and a 16-byte block is its two words. -/
theorem blockTransformsAreInverse : Obligations.BlockTransformsAreInverse :=
  fun r S _ _ hlen => ⟨decryptBlock_encryptBlock S r hlen, encryptBlock_decryptBlock S r hlen⟩

/-- Settles O40: under the register invariant every subkey EncryptBlock reads is inside the table, as on numbers. -/
theorem encblkRule : Obligations.EncblkRule := by
  refine ⟨hasOnlyWord_of_encode_eq rfl rfl, fun _ hmal => congrArg _ (withBytes_of_malformed rfl (fun _ => rfl) hmal),
    fun _ hwell h0 => congrArg _ (withBytes_withKey_of_unkeyed rfl (fun _ => rfl) hwell h0),
    fun s bs hin hle hadm hkeyed hregs => ?_⟩
  obtain ⟨-, -, -, hlen⟩ := hregs.1 hkeyed
  calc exec .encblk s
      = .next (answered s (.bytes (encryptBlock s.table s.cfgRounds.toNat (zeroFill bs)))) :=
        congrArg _ (withBytes_withKey_of hin (blockLength_of_le hle) hadm hkeyed)
    _ = _ := by rw [encryptBlock_eq hlen (length_zeroFill hle), zeroFill]

/-- Settles O41: under the register invariant every subkey DecryptBlock reads is inside the table, as on numbers. -/
theorem decblkRule : Obligations.DecblkRule := by
  refine ⟨hasOnlyWord_of_encode_eq rfl rfl, fun _ hmal => congrArg _ (withBytes_of_malformed rfl (fun _ => rfl) hmal),
    fun _ hwell h0 => congrArg _ (withBytes_withKey_of_unkeyed rfl (fun _ => rfl) hwell h0),
    fun s bs hin hle hadm hkeyed hregs => ?_⟩
  obtain ⟨-, -, -, hlen⟩ := hregs.1 hkeyed
  calc exec .decblk s
      = .next (answered s (.bytes (decryptBlock s.table s.cfgRounds.toNat (zeroFill bs)))) :=
        congrArg _ (withBytes_withKey_of hin (blockLength_of_le hle) hadm hkeyed)
    _ = _ := by rw [decryptBlock_eq hlen (length_zeroFill hle), zeroFill]

end Sys2Proof.Laws
end

section
/-! PROOF. The padding check and the stripping as one fact about a byte string (44_padding.md R192), and from it what
Unpad gives under each policy (R193). -/

namespace Sys2Proof.Machine

open Sys2Proof.Claims

variable {d core : List Byte} {b : Byte} {n : Nat}

/-- The four conditions of R192, the last n bytes as a list. -/
theorem padValid_iff :
    padValid d = true ↔ ∃ b, d.getLast? = some b ∧ 1 ≤ b.toNat ∧ b.toNat ≤ 16 ∧ b.toNat ≤ d.length ∧
      d.drop (d.length - b.toNat) = List.replicate b.toNat b := by
  unfold padValid
  cases d.getLast? with
  | none => simp
  | some b => simp +contextual [List.eq_replicate_iff, Nat.sub_sub_self, and_assoc]

theorem stripPad_of_getLast? (h : d.getLast? = some b) : stripPad d = d.take (d.length - b.toNat) := by
  rw [stripPad, h]

theorem getLast?_append_replicate (core : List Byte) (b : Byte) (hn : 1 ≤ n) :
    (core ++ List.replicate n b).getLast? = some b := by
  simp [List.getLast?_append, List.getLast?_replicate, Nat.ne_of_gt hn]

/-- A padded string passes the check and is stripped to its core, and a string that passes is padded. -/
theorem paddedAs_iff : PaddedAs d core ↔ padValid d = true ∧ stripPad d = core := by
  constructor
  · rintro ⟨n, h1, h16, rfl⟩
    have hlast := getLast?_append_replicate core (BitVec.ofNat 8 n) h1
    have hn : (BitVec.ofNat 8 n).toNat = n := (BitVec.toNat_ofNat n 8).trans (Nat.mod_eq_of_lt (by omega))
    refine ⟨padValid_iff.2 ⟨_, hlast, ?_⟩, ?_⟩
    · simp [hn, h1, h16]
    · simp [stripPad_of_getLast? hlast, hn]
  · rintro ⟨hvalid, rfl⟩
    obtain ⟨b, hlast, h1, h16, -, hpad⟩ := padValid_iff.1 hvalid
    refine ⟨b.toNat, h1, h16, ?_⟩
    rw [stripPad_of_getLast? hlast, BitVec.ofNat_toNat, BitVec.setWidth_eq, ← hpad, List.take_append_drop]

theorem padValid_eq_false (h : ∀ core, ¬ PaddedAs d core) : padValid d = false :=
  Bool.eq_false_iff.2 fun hvalid => h _ (paddedAs_iff.2 ⟨hvalid, rfl⟩)

theorem unpadBytes_of_paddedAs (h : PaddedAs d core) (policy : UnpadPolicy) : unpadBytes policy d = some core := by
  obtain ⟨hvalid, rfl⟩ := paddedAs_iff.1 h
  exact if_pos hvalid

theorem unpadBytes_failOpen (h : ∀ core, ¬ PaddedAs d core) : unpadBytes .failOpen d = some d := by
  simp [unpadBytes, padValid_eq_false h]

theorem unpadBytes_failClosed (h : ∀ core, ¬ PaddedAs d core) : unpadBytes .failClosed d = none := by
  simp [unpadBytes, padValid_eq_false h]

/-- The length Pad adds is between 1 and 16 (R190). -/
theorem paddedAs_padBytes (d : List Byte) : PaddedAs (padBytes d) d :=
  ⟨16 - d.length % 16, by omega, by omega, rfl⟩

end Sys2Proof.Machine
end

section
/-! PROOF. The obligations of 44_padding.md. -/

namespace Sys2Proof.Laws

open Sys2Proof.Machine Sys2Proof.Claims

section

variable {s : State} {d u : List Byte}

theorem exec_pad_of (hin : s.input = .bytes d) (hadm : Admits s d.length) :
    exec .pad s = .next (answered s (.bytes (padBytes d))) :=
  congrArg _ (withBytes_of anyLength s _ d hin rfl hadm)

theorem exec_unpad_of_some (hin : s.input = .bytes d) (hadm : Admits s d.length)
    (hu : unpadBytes s.build.unpad d = some u) : exec .unpad s = .next (answered s (.bytes u)) := by
  refine congrArg _ ((withBytes_of anyLength s _ d hin rfl hadm).trans ?_)
  simp only [hu, respond_eq_answered]

theorem exec_unpad_of_none (hin : s.input = .bytes d) (hadm : Admits s d.length)
    (hu : unpadBytes s.build.unpad d = none) : exec .unpad s = .next (rejected s 0x04#8) := by
  refine congrArg _ ((withBytes_of anyLength s _ d hin rfl hadm).trans ?_)
  simp only [hu, raise_eq_rejected, statusCode]

end

/-- Settles O43: n is the amount Pad computes. -/
theorem padRule : Obligations.PadRule :=
  ⟨hasOnlyWord_of_encode_eq rfl rfl, fun _ hmal => congrArg _ (withBytes_of_malformed rfl (fun _ => rfl) hmal),
    fun _ d hin hadm => ⟨16 - d.length % 16, by omega, by omega, by omega, exec_pad_of hin hadm⟩⟩

/-- Settles O44: the check passes exactly on padded strings, and only where it fails does the policy matter. -/
theorem unpadRule : Obligations.UnpadRule := by
  refine ⟨hasOnlyWord_of_encode_eq rfl rfl, fun _ hmal => congrArg _ (withBytes_of_malformed rfl (fun _ => rfl) hmal),
    fun s d hin hadm => ⟨fun core hpad => ?_, fun hnone => ⟨fun hopen => ?_, fun hclosed => ?_⟩⟩⟩
  · exact exec_unpad_of_some hin hadm (unpadBytes_of_paddedAs hpad _)
  · exact exec_unpad_of_some hin hadm (hopen ▸ unpadBytes_failOpen hnone)
  · exact exec_unpad_of_none hin hadm (hclosed ▸ unpadBytes_failClosed hnone)

/-- Settles O45: Pad(d) is a padded string whose core is d; under `FailOpen` the string 01 02 comes back from Unpad
as it is, and Pad then adds to it. -/
theorem unpadUndoesPad : Obligations.UnpadUndoesPad := by
  refine ⟨fun d => ?_, [0x01#8, 0x02#8], [0x01#8, 0x02#8], by decide, by decide⟩
  obtain ⟨hvalid, -⟩ := paddedAs_iff.1 (paddedAs_padBytes d)
  exact ⟨hvalid, unpadBytes_of_paddedAs (paddedAs_padBytes d)⟩

end Sys2Proof.Laws
end

section
/-! PROOF. CBC block by block (45_cbc.md R210 to R212, R215): where each block stands in an output, the block that the
chaining puts there, and the chaining undone. -/

namespace Sys2Proof.Machine

open Sys2Proof.Claims

variable (S : List Word) (r : Nat)

/-! ## Blocks of a byte string -/

theorem blockAt_zero (d : List Byte) : blockAt d 0 = d.take 16 := rfl

theorem blockAt_succ (d : List Byte) (k : Nat) : blockAt d (k + 1) = blockAt (d.drop 16) k := by
  rw [blockAt, blockAt, List.drop_drop, Nat.mul_succ, Nat.add_comm]

theorem blockAt_append_zero {x : List Byte} (hx : x.length = 16) (y : List Byte) : blockAt (x ++ y) 0 = x :=
  List.take_left' hx

theorem blockAt_append_succ {x : List Byte} (hx : x.length = 16) (y : List Byte) (k : Nat) :
    blockAt (x ++ y) (k + 1) = blockAt y k := by
  rw [blockAt_succ, List.drop_left' hx]

/-- Each byte of the mask cancels itself. -/
theorem xorBytes_xorBytes_cancel {x y : List Byte} (h : x.length ≤ y.length) : xorBytes (xorBytes x y) y = x :=
  List.ext_getElem (by simp [h]) fun i _ _ => by simp [xorBytes]

/-! ## The chaining -/

theorem cbcEncBlocks_succ (m : Nat) (p prev : List Byte) :
    cbcEncBlocks S r (m + 1) p prev =
      encryptBlock S r (xorBytes (p.take 16) prev) ++
        cbcEncBlocks S r m (p.drop 16) (encryptBlock S r (xorBytes (p.take 16) prev)) := rfl

theorem cbcDecBlocks_succ (m : Nat) (d prev : List Byte) :
    cbcDecBlocks S r (m + 1) d prev =
      xorBytes (decryptBlock S r (d.take 16)) prev ++ cbcDecBlocks S r m (d.drop 16) (d.take 16) := rfl

/-- Behind the block it is chained on, the ciphertext's block `k + 1` is made from plaintext block `k` and ciphertext
block `k` (R210). -/
theorem blockAt_cbcEncBlocks {m k : Nat} (hk : k < m) (p : List Byte) {prev : List Byte} (hprev : prev.length = 16) :
    blockAt (prev ++ cbcEncBlocks S r m p prev) (k + 1) =
      encryptBlock S r (xorBytes (blockAt p k) (blockAt (prev ++ cbcEncBlocks S r m p prev) k)) := by
  induction m generalizing k p prev with
  | zero => omega
  | succ m ih =>
    rw [blockAt_append_succ hprev, cbcEncBlocks_succ]
    cases k with
    | zero => rw [blockAt_append_zero (length_encryptBlock ..), blockAt_append_zero hprev, blockAt_zero]
    | succ k =>
      rw [ih (Nat.lt_of_succ_lt_succ hk) _ (length_encryptBlock ..), blockAt_append_succ hprev, blockAt_succ p]

/-- The plaintext's block `k` is made from ciphertext blocks `k + 1` and `k` (R212). -/
theorem blockAt_cbcDecBlocks {m k : Nat} (hk : k < m) {d : List Byte} (hd : 16 * (m + 1) ≤ d.length) :
    blockAt (cbcDecBlocks S r m (d.drop 16) (d.take 16)) k =
      xorBytes (decryptBlock S r (blockAt d (k + 1))) (blockAt d k) := by
  induction m generalizing k d with
  | zero => omega
  | succ m ih =>
    have hlen : (xorBytes (decryptBlock S r ((d.drop 16).take 16)) (d.take 16)).length = 16 := by simp; omega
    rw [cbcDecBlocks_succ]
    cases k with
    | zero => rw [blockAt_append_zero hlen, blockAt_succ, blockAt_zero, blockAt_zero]
    | succ k =>
      rw [blockAt_append_succ hlen, ih (Nat.lt_of_succ_lt_succ hk) (by rw [List.length_drop]; omega), blockAt_succ d,
        blockAt_succ d]

/-- Block by block: the decryption gives back the masked plaintext block, and the mask cancels (R215). -/
theorem cbcDecBlocks_cbcEncBlocks {m : Nat} {p prev : List Byte} (hp : p.length = 16 * m) (hprev : prev.length = 16) :
    cbcDecBlocks S r m (cbcEncBlocks S r m p prev) prev = p := by
  induction m generalizing p prev with
  | zero => exact (List.eq_nil_of_length_eq_zero hp).symm
  | succ m ih =>
    have hblock : (p.take 16).length = 16 := List.length_take_of_le (by omega)
    have hmasked : (xorBytes (p.take 16) prev).length = 16 := by rw [length_xorBytes, hblock, hprev, Nat.min_self]
    rw [cbcEncBlocks_succ, cbcDecBlocks_succ, List.take_left' (length_encryptBlock ..),
      List.drop_left' (length_encryptBlock ..), decryptBlock_encryptBlock S r hmasked,
      xorBytes_xorBytes_cancel (hblock.trans hprev.symm).le,
      ih (by rw [List.length_drop]; omega) (length_encryptBlock ..), List.take_append_drop]

/-! ## CBCEncrypt and CBCDecrypt -/

variable (iv : Iv) {p d : List Byte}

theorem take_cbcEncrypt : (cbcEncrypt S r iv p).take 16 = iv.toList := List.take_left' Vector.length_toList

theorem drop_cbcEncrypt : (cbcEncrypt S r iv p).drop 16 = cbcEncBlocks S r (p.length / 16) p iv.toList :=
  List.drop_left' Vector.length_toList

theorem cbcDecrypt_of_bad (h : BadCiphertextLength d.length) : cbcDecrypt S r d = none := if_pos h

theorem cbcDecrypt_of_good (h : ¬ BadCiphertextLength d.length) :
    cbcDecrypt S r d = some (cbcDecBlocks S r ((d.length - 16) / 16) (d.drop 16) (d.take 16)) := if_neg h

theorem cbcDecrypt_cbcEncrypt (hmul : p.length % 16 = 0) (hne : 16 ≤ p.length) :
    cbcDecrypt S r (cbcEncrypt S r iv p) = some p := by
  have hlen := length_cbcEncrypt S r iv hmul
  have hgood : ¬ BadCiphertextLength (cbcEncrypt S r iv p).length := by rw [hlen]; omega
  rw [cbcDecrypt_of_good S r hgood, hlen, Nat.add_sub_cancel, take_cbcEncrypt, drop_cbcEncrypt,
    cbcDecBlocks_cbcEncBlocks S r (by omega) Vector.length_toList]

end Sys2Proof.Machine
end

section
/-! PROOF. The obligations of 45_cbc.md. -/

namespace Sys2Proof.Laws

open Sys2Proof.Machine Sys2Proof.Claims

section

variable {s : State} {p d : List Byte}

theorem blockMultiple_of_mod_eq_zero {n : Nat} (h : n % 16 = 0) : blockMultiple n = true := beq_iff_eq.2 h

theorem exec_cbcenc_of (hin : s.input = .bytes p) (hmul : p.length % 16 = 0) (hadm : Admits s p.length)
    (hkeyed : s.keyValid = 1#1) :
    exec .cbcenc s =
      .next (answered (afterDraw s) (.bytes (cbcEncrypt s.table s.cfgRounds.toNat (nextDraw s) p))) := by
  refine congrArg _ ((withBytes_withKey_of hin (blockMultiple_of_mod_eq_zero hmul) hadm hkeyed).trans ?_)
  rw [draw16_eq, respond_eq_answered]

theorem exec_cbcdec_of_some (hin : s.input = .bytes d) (hadm : Admits s d.length) (hkeyed : s.keyValid = 1#1)
    (hp : cbcDecrypt s.table s.cfgRounds.toNat d = some p) :
    exec .cbcdec s = .next (answered s (.bytes p)) := by
  refine congrArg _ ((withBytes_withKey_of hin rfl hadm hkeyed).trans ?_)
  simp only [hp, respond_eq_answered]

theorem exec_cbcdec_of_none (hin : s.input = .bytes d) (hadm : Admits s d.length) (hkeyed : s.keyValid = 1#1)
    (hp : cbcDecrypt s.table s.cfgRounds.toNat d = none) : exec .cbcdec s = .next (rejected s 0x03#8) := by
  refine congrArg _ ((withBytes_withKey_of hin rfl hadm hkeyed).trans ?_)
  simp only [hp, raise_eq_rejected, statusCode]

end

/-- Settles O48: block by block the decryption undoes the encryption, and the first block of the output is the IV. -/
theorem cbcDecryptUndoesEncrypt : Obligations.CbcDecryptUndoesEncrypt := fun S r iv _ hmul hne =>
  ⟨cbcDecrypt_cbcEncrypt S r iv hmul hne, length_cbcEncrypt S r iv hmul, take_cbcEncrypt S r iv⟩

/-- Settles O46: the output is CBCEncrypt under the value drawn, whose blocks are the chain that starts at the IV. -/
theorem cbcencRule : Obligations.CbcencRule :=
  ⟨hasOnlyWord_of_encode_eq rfl rfl, fun _ hmal => congrArg _ (withBytes_of_malformed rfl (fun _ => rfl) hmal),
    fun _ hwell h0 => congrArg _ (withBytes_withKey_of_unkeyed rfl (fun _ => rfl) hwell h0),
    fun s p hin hmul hadm hkeyed =>
      ⟨cbcEncrypt s.table s.cfgRounds.toNat (nextDraw s) p, exec_cbcenc_of hin hmul hadm hkeyed,
        length_cbcEncrypt _ _ _ hmul, take_cbcEncrypt _ _ _, fun _ hk =>
          blockAt_cbcEncBlocks _ _ hk p Vector.length_toList⟩⟩

/-- Settles O47: the output of a good length is CBCDecrypt's blocks, each made from two blocks of the input. -/
theorem cbcdecRule : Obligations.CbcdecRule := by
  refine ⟨hasOnlyWord_of_encode_eq rfl rfl, fun _ hmal => congrArg _ (withBytes_of_malformed rfl (fun _ => rfl) hmal),
    fun _ hwell h0 => congrArg _ (withBytes_withKey_of_unkeyed rfl (fun _ => rfl) hwell h0),
    fun s d hin hadm hkeyed => ⟨fun hbad => ?_, fun hgood => ?_⟩⟩
  · exact exec_cbcdec_of_none hin hadm hkeyed (cbcDecrypt_of_bad _ _ hbad)
  · have hp := cbcDecrypt_of_good s.table s.cfgRounds.toNat hgood
    exact ⟨_, exec_cbcdec_of_some hin hadm hkeyed hp, length_of_cbcDecrypt hp,
      fun k hk => blockAt_cbcDecBlocks _ _ (by omega) (by omega)⟩

end Sys2Proof.Laws
end

section
/-! PROOF. A bit field as a number, for the codecs (46_codecs.md), whose claims are about numbers. -/

namespace Sys2Proof.Machine

theorem toNat_extractLsb' {n : Nat} (x : BitVec n) (lo len : Nat) :
    (x.extractLsb' lo len).toNat = x.toNat / 2 ^ lo % 2 ^ len := by
  rw [BitVec.extractLsb'_toNat, Nat.shiftRight_eq_div_pow]

end Sys2Proof.Machine
end

section
/-! PROOF. UTF-8 on numbers (46_codecs.md R230 to R234): the bytes of a unit and of a surrogate pair, what one pass of
the decoder does for each class of lead byte, and from the two the round trip (R236). -/

namespace Sys2Proof.Machine

open Sys2Proof.Claims

/-! ## Continuation bytes -/

theorem toNat_contByte (v : BitVec 6) : (contByte v).toNat = 0x80 + v.toNat := toNat_append 0b10#2 v

theorem toNat_low6 (b : Byte) : (low6 b).toNat = b.toNat % 2 ^ 6 := by
  rw [low6, toNat_extractLsb', Nat.pow_zero, Nat.div_one]

/-! ## The encoder (R230, R231) -/

section

variable {x y : CodeUnit}

theorem isSurrogatePair_iff : (isHighSurrogate x && isLowSurrogate y) = true ↔ SurrogatePair x y := by
  simp [isHighSurrogate, isLowSurrogate, BitVec.le_def, and_assoc]

theorem utf8Encode_of_pair (h : SurrogatePair x y) (rest : List CodeUnit) :
    utf8Encode (x :: y :: rest) = utf8Pair x y ++ utf8Encode rest :=
  if_pos (isSurrogatePair_iff.2 h)

theorem utf8Encode_of_not_pair {rest : List CodeUnit} (h : ∀ y, rest.head? = some y → ¬ SurrogatePair x y) :
    utf8Encode (x :: rest) = utf8Unit x ++ utf8Encode rest := by
  cases rest with
  | nil => exact (List.append_nil _).symm
  | cons y rest => exact if_neg (mt isSurrogatePair_iff.1 (h y rfl))

theorem toNat_pairValue (h : SurrogatePair x y) :
    (pairValue x y).toNat = 0x10000 + (x.toNat - 0xD800) * 2 ^ 10 + (y.toNat - 0xDC00) := by
  obtain ⟨hx, hx', hy, hy'⟩ := h
  have hhi : (x - 0xD800#16).toNat = x.toNat - 0xD800 := BitVec.toNat_sub_of_le (BitVec.le_def.2 hx)
  have hlo : (y - 0xDC00#16).toNat = y.toNat - 0xDC00 := BitVec.toNat_sub_of_le (BitVec.le_def.2 hy)
  simp only [pairValue, BitVec.toNat_add, BitVec.toNat_shiftLeft, BitVec.toNat_setWidth, hhi, hlo,
    BitVec.toNat_ofNat, Nat.shiftLeft_eq]
  omega

theorem utf8Pair_eq (h : SurrogatePair x y) :
    utf8Pair x y = (pairBytes x.toNat y.toNat).map (BitVec.ofNat 8) := by
  have hcp := toNat_pairValue h
  obtain ⟨hx, hx', hy, hy'⟩ := h
  simp only [utf8Pair, pairBytes, List.map_cons, List.map_nil, List.cons.injEq, ← BitVec.toNat_inj, toNat_append,
    toNat_contByte, toNat_extractLsb', BitVec.toNat_ofNat, hcp, and_true]
  omega

theorem utf8Unit_eq (x : CodeUnit) : utf8Unit x = (unitBytes x.toNat).map (BitVec.ofNat 8) := by
  have hx := x.isLt
  simp only [utf8Unit, unitBytes, BitVec.le_def, BitVec.toNat_ofNat]
  split_ifs <;>
    simp only [List.map_cons, List.map_nil, List.cons.injEq, ← BitVec.toNat_inj, toNat_append, toNat_contByte,
      toNat_extractLsb', BitVec.toNat_ofNat, and_true] <;>
    omega

end

/-! ## One pass of the decoder (R233, R234) -/

theorem utf8Need_eq (b : Byte) :
    utf8Need b =
      if b.toNat ≤ 0x7F then some 1
      else if 0xC0 ≤ b.toNat ∧ b.toNat ≤ 0xDF then some 2
      else if 0xE0 ≤ b.toNat ∧ b.toNat ≤ 0xEF then some 3
      else if 0xF0 ≤ b.toNat ∧ b.toNat ≤ 0xF7 then some 4
      else none := by
  simp [utf8Need, BitVec.le_def]

theorem utf8Need_one {b : Byte} (h : b.toNat ≤ 0x7F) : utf8Need b = some 1 := by
  rw [utf8Need_eq, if_pos h]

theorem utf8Need_two {b : Byte} (h : 0xC0 ≤ b.toNat) (h' : b.toNat ≤ 0xDF) : utf8Need b = some 2 := by
  rw [utf8Need_eq, if_neg (by omega), if_pos ⟨h, h'⟩]

theorem utf8Need_three {b : Byte} (h : 0xE0 ≤ b.toNat) (h' : b.toNat ≤ 0xEF) : utf8Need b = some 3 := by
  rw [utf8Need_eq, if_neg (by omega), if_neg (by omega), if_pos ⟨h, h'⟩]

theorem utf8Need_four {b : Byte} (h : 0xF0 ≤ b.toNat) (h' : b.toNat ≤ 0xF7) : utf8Need b = some 4 := by
  rw [utf8Need_eq, if_neg (by omega), if_neg (by omega), if_neg (by omega), if_pos ⟨h, h'⟩]

theorem utf8Need_none {b : Byte} (h : (0x80 ≤ b.toNat ∧ b.toNat ≤ 0xBF) ∨ 0xF8 ≤ b.toNat) : utf8Need b = none := by
  rw [utf8Need_eq, if_neg (by omega), if_neg (by omega), if_neg (by omega), if_neg (by omega)]

theorem toNat_value2 (b b1 : Byte) : (value2 b b1).toNat = b.toNat % 2 ^ 5 * 2 ^ 6 + b1.toNat % 2 ^ 6 := by
  simp only [value2, BitVec.toNat_setWidth, toNat_append, toNat_low6, toNat_extractLsb']
  omega

theorem toNat_value3 (b b1 b2 : Byte) :
    (value3 b b1 b2).toNat = b.toNat % 2 ^ 4 * 2 ^ 12 + b1.toNat % 2 ^ 6 * 2 ^ 6 + b2.toNat % 2 ^ 6 := by
  simp only [value3, toNat_append, toNat_low6, toNat_extractLsb']
  omega

theorem toNat_value4 (b b1 b2 b3 : Byte) :
    (value4 b b1 b2 b3).toNat =
      b.toNat % 2 ^ 3 * 2 ^ 18 + b1.toNat % 2 ^ 6 * 2 ^ 12 + b2.toNat % 2 ^ 6 * 2 ^ 6 + b3.toNat % 2 ^ 6 := by
  simp only [value4, toNat_append, toNat_low6, toNat_extractLsb']
  omega

theorem unitsOfValue_of_lt {cp : BitVec 21} (h : cp.toNat < 0x10000) :
    unitsOfValue cp = [BitVec.ofNat 16 cp.toNat] := by
  rw [unitsOfValue, if_neg (by simpa [BitVec.le_def] using h)]
  rfl

/-- A value of more than 16 bits is emitted as a surrogate pair. -/
theorem unitsOfValue_of_le {cp : BitVec 21} (h : 0x10000 ≤ cp.toNat) (h' : cp.toNat ≤ 0x10FFFF) :
    unitsOfValue cp =
      [BitVec.ofNat 16 (0xD800 + (cp.toNat - 0x10000) / 2 ^ 10),
       BitVec.ofNat 16 (0xDC00 + (cp.toNat - 0x10000) % 2 ^ 10)] := by
  have hle : 0x10000#21 ≤ cp := BitVec.le_def.2 h
  have hv : (cp - 0x10000#21).toNat = cp.toNat - 0x10000 := BitVec.toNat_sub_of_le hle
  rw [unitsOfValue, if_pos hle]
  simp only [List.cons.injEq, ← BitVec.toNat_inj, BitVec.toNat_add, BitVec.toNat_setWidth, toNat_extractLsb', hv,
    BitVec.toNat_ofNat, and_true]
  omega

/-! ## The decoder by the lead byte's class -/

section

variable {b b1 b2 b3 : Byte} (rest : List Byte)

/-- What is emitted for the bytes passed, and then the rest decoded. -/
theorem utf8Decode_of_pass {rest : List Byte} {us : List CodeUnit} {n : Nat} (h : utf8Pass b rest = (us, n)) :
    utf8Decode (b :: rest) = us ++ utf8Decode (rest.drop n) := by
  rw [utf8Decode_cons, h, utf8Walk_drop]

theorem utf8Decode_one (h : b.toNat ≤ 0x7F) :
    utf8Decode (b :: rest) = BitVec.ofNat 16 b.toNat :: utf8Decode rest :=
  BitVec.ofNat_toNat 16 b ▸
    utf8Decode_of_pass (us := [b.setWidth 16]) (n := 0) (by simp only [utf8Pass, utf8Need_one h])

/-- A byte that is no lead, and one whose sequence is cut short, is skipped alone. -/
theorem utf8Decode_skip {rest : List Byte} (h : ∀ n, utf8Need b = some n → rest.length + 1 < n) :
    utf8Decode (b :: rest) = utf8Decode rest := by
  refine utf8Decode_of_pass (us := []) (n := 0) ?_
  unfold utf8Pass
  split
  next hneed => exact absurd (h 1 hneed) (by omega)
  next hneed => exact absurd (h 2 hneed) (by simp)
  next hneed => exact absurd (h 3 hneed) (by simp)
  next hneed => exact absurd (h 4 hneed) (by simp)
  next => rfl

theorem utf8Decode_truncated {rest : List Byte} {n : Nat} (hneed : utf8Need b = some n) (hlen : rest.length + 1 < n) :
    utf8Decode (b :: rest) = utf8Decode rest :=
  utf8Decode_skip fun _ hm => Option.some.inj (hneed.symm.trans hm) ▸ hlen

theorem utf8Decode_two (h : 0xC0 ≤ b.toNat) (h' : b.toNat ≤ 0xDF) :
    utf8Decode (b :: b1 :: rest) =
      BitVec.ofNat 16 (b.toNat % 2 ^ 5 * 2 ^ 6 + b1.toNat % 2 ^ 6) :: utf8Decode rest := by
  rw [← toNat_value2, BitVec.ofNat_toNat, BitVec.setWidth_eq]
  exact utf8Decode_of_pass (us := [value2 b b1]) (n := 1) (by simp only [utf8Pass, utf8Need_two h h'])

theorem utf8Decode_three (h : 0xE0 ≤ b.toNat) (h' : b.toNat ≤ 0xEF) :
    utf8Decode (b :: b1 :: b2 :: rest) =
      BitVec.ofNat 16 (b.toNat % 2 ^ 4 * 2 ^ 12 + b1.toNat % 2 ^ 6 * 2 ^ 6 + b2.toNat % 2 ^ 6) ::
        utf8Decode rest := by
  rw [← toNat_value3, BitVec.ofNat_toNat, BitVec.setWidth_eq]
  exact utf8Decode_of_pass (us := [value3 b b1 b2]) (n := 2) (by simp only [utf8Pass, utf8Need_three h h'])

theorem utf8Decode_four (h : 0xF0 ≤ b.toNat) (h' : b.toNat ≤ 0xF7)
    (hcp : value4 b b1 b2 b3 ≤ 0x10FFFF#21) :
    utf8Decode (b :: b1 :: b2 :: b3 :: rest) = unitsOfValue (value4 b b1 b2 b3) ++ utf8Decode rest :=
  utf8Decode_of_pass (n := 3) (by simp only [utf8Pass, utf8Need_four h h', if_pos hcp])

theorem utf8Decode_four_skip (h : 0xF0 ≤ b.toNat) (h' : b.toNat ≤ 0xF7)
    (hcp : ¬ value4 b b1 b2 b3 ≤ 0x10FFFF#21) :
    utf8Decode (b :: b1 :: b2 :: b3 :: rest) = utf8Decode (b1 :: b2 :: b3 :: rest) :=
  utf8Decode_of_pass (us := []) (n := 0)
    (by simp only [utf8Pass, utf8Need_four h h', if_neg hcp])

end

/-! ## The round trip (R236) -/

section

variable {x y : CodeUnit} (rest : List Byte)

/-- The decoder reads a code unit's own bytes back, whatever follows, a surrogate's 3 bytes included (R234 (e)). -/
theorem utf8Decode_utf8Unit : utf8Decode (utf8Unit x ++ rest) = x :: utf8Decode rest := by
  have hx := x.isLt
  rw [utf8Unit_eq, unitBytes]
  split_ifs with h1 h2 <;> simp only [List.map_cons, List.map_nil, List.cons_append, List.nil_append]
  · rw [utf8Decode_one _ (by rw [BitVec.toNat_ofNat]; omega)]
    simp only [List.cons.injEq, ← BitVec.toNat_inj, BitVec.toNat_ofNat, and_true]
    omega
  · rw [utf8Decode_two _ (by rw [BitVec.toNat_ofNat]; omega) (by rw [BitVec.toNat_ofNat]; omega)]
    simp only [List.cons.injEq, ← BitVec.toNat_inj, BitVec.toNat_ofNat, and_true]
    omega
  · rw [utf8Decode_three _ (by rw [BitVec.toNat_ofNat]; omega) (by rw [BitVec.toNat_ofNat]; omega)]
    simp only [List.cons.injEq, ← BitVec.toNat_inj, BitVec.toNat_ofNat, and_true]
    omega

/-- A value is read back from the four bytes its bits are laid out in. -/
theorem value4_fields (cp : BitVec 21) :
    value4 (0b11110#5 ++ cp.extractLsb' 18 3) (contByte (cp.extractLsb' 12 6)) (contByte (cp.extractLsb' 6 6))
      (contByte (cp.extractLsb' 0 6)) = cp := by
  have hcp := cp.isLt
  simp only [← BitVec.toNat_inj, toNat_value4, toNat_append, toNat_contByte, toNat_extractLsb', BitVec.toNat_ofNat]
  omega

theorem unitsOfValue_pairValue (h : SurrogatePair x y) : unitsOfValue (pairValue x y) = [x, y] := by
  have hcp := toNat_pairValue h
  obtain ⟨hx, hx', hy, hy'⟩ := h
  rw [unitsOfValue_of_le (by omega) (by omega), hcp]
  simp only [List.cons.injEq, ← BitVec.toNat_inj, BitVec.toNat_ofNat, and_true]
  omega

theorem utf8Decode_utf8Pair (h : SurrogatePair x y) :
    utf8Decode (utf8Pair x y ++ rest) = x :: y :: utf8Decode rest := by
  have hcp := toNat_pairValue h
  have hle : pairValue x y ≤ 0x10FFFF#21 := BitVec.le_def.2 (by rw [hcp, BitVec.toNat_ofNat]; omega)
  have hlead : (0b11110#5 ++ (pairValue x y).extractLsb' 18 3).toNat = 0xF0 + (pairValue x y).toNat / 2 ^ 18 := by
    simp only [toNat_append, toNat_extractLsb', BitVec.toNat_ofNat]
    omega
  calc
    _ = unitsOfValue (pairValue x y) ++ utf8Decode rest := by
      rw [← value4_fields (pairValue x y)] at hle
      exact (utf8Decode_four rest (by omega) (by omega) hle).trans (by rw [value4_fields])
    _ = _ := by rw [unitsOfValue_pairValue h]; rfl

end

theorem utf8Decode_utf8Encode (us : List CodeUnit) : utf8Decode (utf8Encode us) = us := by
  induction us using utf8Encode.induct with
  | case1 => rfl
  | case2 x =>
    rw [utf8Encode_of_not_pair (by simp), utf8Decode_utf8Unit]
    rfl
  | case3 x y rest hpair ih =>
    have h := isSurrogatePair_iff.1 hpair
    rw [utf8Encode_of_pair h, utf8Decode_utf8Pair _ h, ih]
  | case4 x y rest hpair ih =>
    have h := mt isSurrogatePair_iff.2 hpair
    rw [utf8Encode_of_not_pair (by simpa using h), utf8Decode_utf8Unit, ih]

end Sys2Proof.Machine
end

section
/-! PROOF. Base64 as a relation between texts and bytes (46_codecs.md R237 to R241), which the decoder decides and the
encoder meets, and from it the round trip (R244). -/

namespace Sys2Proof.Machine

open Sys2Proof.Claims

/-! ## The alphabet (R237) -/

theorem alphabet_getElem? (v : BitVec 6) : alphabet[v.toNat]? = some (b64Char v).toNat := by
  revert v; decide

@[simp] theorem b64Value_b64Char (v : BitVec 6) : b64Value (b64Char v) = some v := by revert v; decide

@[simp] theorem charValue_b64Char (v : BitVec 6) : charValue (b64Char v) = v.toNat := by revert v; decide

@[simp] theorem b64Char_ne_padChar (v : BitVec 6) : b64Char v ≠ padChar := by revert v; decide

@[simp] theorem charValue_padChar : charValue padChar = 0 := by decide

theorem mem_alphabet_iff {c : CodeUnit} : c.toNat ∈ alphabet ↔ ∃ v, c = b64Char v := by
  constructor
  · intro h
    obtain ⟨i, hi, hc⟩ := List.getElem_of_mem h
    have hlt : i < 64 := hi
    have hv : (BitVec.ofNat 6 i).toNat = i := (BitVec.toNat_ofNat i 6).trans (Nat.mod_eq_of_lt hlt)
    have := alphabet_getElem? (BitVec.ofNat 6 i)
    rw [hv, List.getElem?_eq_getElem hi, hc, Option.some.injEq, BitVec.toNat_inj] at this
    exact ⟨_, this⟩
  · rintro ⟨v, rfl⟩
    exact List.mem_of_getElem? (alphabet_getElem? v)

theorem b64Value_eq_none {c : CodeUnit} (h : c.toNat ∉ alphabet) : b64Value c = none := by
  simp only [alphabet, List.mem_append, List.mem_range'_1, List.mem_cons, List.not_mem_nil, or_false] at h
  rw [b64Value, if_neg (by omega), if_neg (by omega), if_neg (by omega), if_neg (by omega), if_neg (by omega)]

@[simp] theorem b64Char_mem_alphabet (v : BitVec 6) : (b64Char v).toNat ∈ alphabet := mem_alphabet_iff.2 ⟨v, rfl⟩

theorem padChar_not_mem_alphabet : padChar.toNat ∉ alphabet := by decide

/-- `b64Value` and `b64Char` undo each other. -/
theorem b64Value_eq_some_iff {c : CodeUnit} {v : BitVec 6} : b64Value c = some v ↔ c = b64Char v := by
  constructor
  · intro h
    have hmem : c.toNat ∈ alphabet := by
      by_contra hn
      cases (b64Value_eq_none hn).symm.trans h
    obtain ⟨w, rfl⟩ := mem_alphabet_iff.1 hmem
    rw [Option.some.inj ((b64Value_b64Char w).symm.trans h)]
  · rintro rfl
    exact b64Value_b64Char v

/-! ## Groups: 24 bits as three bytes and as four 6-bit values (R240, R241) -/

section

variable (v : BitVec 24) (g0 g1 g2 : Byte) (v0 v1 v2 v3 : BitVec 6)

/-- The bytes of a group are its 24 bits, and so are its 6-bit values, in order. -/
theorem join_bytes : v.extractLsb' 16 8 ++ v.extractLsb' 8 8 ++ v.extractLsb' 0 8 = v := by
  have := v.isLt
  simp only [← BitVec.toNat_inj, toNat_append, toNat_extractLsb']
  omega

theorem join_sextets :
    v.extractLsb' 18 6 ++ v.extractLsb' 12 6 ++ v.extractLsb' 6 6 ++ v.extractLsb' 0 6 = v := by
  have := v.isLt
  simp only [← BitVec.toNat_inj, toNat_append, toNat_extractLsb']
  omega

theorem bytes_of_join :
    (g0 ++ g1 ++ g2).extractLsb' 16 8 = g0 ∧ (g0 ++ g1 ++ g2).extractLsb' 8 8 = g1 ∧
      (g0 ++ g1 ++ g2).extractLsb' 0 8 = g2 := by
  simp only [← BitVec.toNat_inj, toNat_append, toNat_extractLsb']
  omega

theorem sextets_of_join :
    (v0 ++ v1 ++ v2 ++ v3).extractLsb' 18 6 = v0 ∧ (v0 ++ v1 ++ v2 ++ v3).extractLsb' 12 6 = v1 ∧
      (v0 ++ v1 ++ v2 ++ v3).extractLsb' 6 6 = v2 ∧ (v0 ++ v1 ++ v2 ++ v3).extractLsb' 0 6 = v3 := by
  simp only [← BitVec.toNat_inj, toNat_append, toNat_extractLsb']
  omega

/-- Zero-filling the first byte gives its two 6-bit values where the 4 bits it does not reach are zero. -/
theorem sextets_of_one_byte (h : (v.extractLsb' 12 6).toNat % 2 ^ 4 = 0) :
    (v.extractLsb' 16 8 ++ 0#8 ++ 0#8).extractLsb' 18 6 = v.extractLsb' 18 6 ∧
      (v.extractLsb' 16 8 ++ 0#8 ++ 0#8).extractLsb' 12 6 = v.extractLsb' 12 6 := by
  simp only [← BitVec.toNat_inj, toNat_append, toNat_extractLsb', BitVec.toNat_ofNat] at h ⊢
  omega

/-- Zero-filling the first two bytes gives their three 6-bit values where the 2 bits they do not reach are zero. -/
theorem sextets_of_two_bytes (h : (v.extractLsb' 6 6).toNat % 2 ^ 2 = 0) :
    (v.extractLsb' 16 8 ++ v.extractLsb' 8 8 ++ 0#8).extractLsb' 18 6 = v.extractLsb' 18 6 ∧
      (v.extractLsb' 16 8 ++ v.extractLsb' 8 8 ++ 0#8).extractLsb' 12 6 = v.extractLsb' 12 6 ∧
      (v.extractLsb' 16 8 ++ v.extractLsb' 8 8 ++ 0#8).extractLsb' 6 6 = v.extractLsb' 6 6 := by
  simp only [← BitVec.toNat_inj, toNat_append, toNat_extractLsb', BitVec.toNat_ofNat] at h ⊢
  omega

/-- The values that no byte of a short last group needs do not reach its bytes. -/
theorem byte_of_two_sextets : (v0 ++ v1).extractLsb' 4 8 = (v0 ++ v1 ++ v2 ++ v3).extractLsb' 16 8 := by
  simp only [← BitVec.toNat_inj, toNat_append, toNat_extractLsb']
  omega

theorem bytes_of_three_sextets :
    (v0 ++ v1 ++ v2).extractLsb' 10 8 = (v0 ++ v1 ++ v2 ++ v3).extractLsb' 16 8 ∧
      (v0 ++ v1 ++ v2).extractLsb' 2 8 = (v0 ++ v1 ++ v2 ++ v3).extractLsb' 8 8 := by
  simp only [← BitVec.toNat_inj, toNat_append, toNat_extractLsb']
  omega

end

/-! ## Texts and the bytes they stand for -/

/-- `us` is a text that stands for the bytes `d`: groups of four alphabet characters, each the 24 bits `v` of three
bytes; in the last, one or two `=` may stand for the characters that no byte needs, whatever the unused bits are
(R241). -/
inductive Base64Of : List CodeUnit → List Byte → Prop where
  | nil : Base64Of [] []
  | one (v : BitVec 24) :
      Base64Of [b64Char (v.extractLsb' 18 6), b64Char (v.extractLsb' 12 6), padChar, padChar] [v.extractLsb' 16 8]
  | two (v : BitVec 24) :
      Base64Of [b64Char (v.extractLsb' 18 6), b64Char (v.extractLsb' 12 6), b64Char (v.extractLsb' 6 6), padChar]
        [v.extractLsb' 16 8, v.extractLsb' 8 8]
  | group (v : BitVec 24) {us : List CodeUnit} {d : List Byte} (rest : Base64Of us d) :
      Base64Of
        (b64Char (v.extractLsb' 18 6) :: b64Char (v.extractLsb' 12 6) :: b64Char (v.extractLsb' 6 6) ::
          b64Char (v.extractLsb' 0 6) :: us)
        (v.extractLsb' 16 8 :: v.extractLsb' 8 8 :: v.extractLsb' 0 8 :: d)

section

variable {c0 c1 c2 c3 : CodeUnit} {us : List CodeUnit} {d : List Byte} (v : BitVec 24)

theorem b64Group_eq_some_iff :
    b64Group c0 c1 c2 c3 = some d ↔
      ∃ v : BitVec 24, c0 = b64Char (v.extractLsb' 18 6) ∧ c1 = b64Char (v.extractLsb' 12 6) ∧
        c2 = b64Char (v.extractLsb' 6 6) ∧ c3 = b64Char (v.extractLsb' 0 6) ∧
        d = [v.extractLsb' 16 8, v.extractLsb' 8 8, v.extractLsb' 0 8] := by
  constructor
  · intro h
    unfold b64Group at h
    split at h
    next v0 v1 v2 v3 h0 h1 h2 h3 =>
      obtain ⟨e0, e1, e2, e3⟩ := sextets_of_join v0 v1 v2 v3
      refine ⟨v0 ++ v1 ++ v2 ++ v3, ?_, ?_, ?_, ?_, (Option.some.inj h).symm⟩
      · rw [e0, b64Value_eq_some_iff.1 h0]
      · rw [e1, b64Value_eq_some_iff.1 h1]
      · rw [e2, b64Value_eq_some_iff.1 h2]
      · rw [e3, b64Value_eq_some_iff.1 h3]
    next => cases h
  · rintro ⟨v, rfl, rfl, rfl, rfl, rfl⟩
    simp only [b64Group, b64Value_b64Char, join_sextets]

theorem b64Group3_eq_some_iff :
    b64Group3 c0 c1 c2 = some d ↔
      ∃ v : BitVec 24, c0 = b64Char (v.extractLsb' 18 6) ∧ c1 = b64Char (v.extractLsb' 12 6) ∧
        c2 = b64Char (v.extractLsb' 6 6) ∧ d = [v.extractLsb' 16 8, v.extractLsb' 8 8] := by
  constructor
  · intro h
    unfold b64Group3 at h
    split at h
    next v0 v1 v2 h0 h1 h2 =>
      obtain ⟨e0, e1, e2, -⟩ := sextets_of_join v0 v1 v2 0#6
      obtain ⟨b0, b1⟩ := bytes_of_three_sextets v0 v1 v2 0#6
      refine ⟨v0 ++ v1 ++ v2 ++ 0#6, ?_, ?_, ?_, ?_⟩
      · rw [e0, b64Value_eq_some_iff.1 h0]
      · rw [e1, b64Value_eq_some_iff.1 h1]
      · rw [e2, b64Value_eq_some_iff.1 h2]
      · rw [← b0, ← b1, Option.some.inj h]
    next => cases h
  · rintro ⟨v, rfl, rfl, rfl, rfl⟩
    obtain ⟨b0, b1⟩ :=
      bytes_of_three_sextets (v.extractLsb' 18 6) (v.extractLsb' 12 6) (v.extractLsb' 6 6) (v.extractLsb' 0 6)
    simp only [b64Group3, b64Value_b64Char, b0, b1, join_sextets]

theorem b64Group2_eq_some_iff :
    b64Group2 c0 c1 = some d ↔
      ∃ v : BitVec 24, c0 = b64Char (v.extractLsb' 18 6) ∧ c1 = b64Char (v.extractLsb' 12 6) ∧
        d = [v.extractLsb' 16 8] := by
  constructor
  · intro h
    unfold b64Group2 at h
    split at h
    next v0 v1 h0 h1 =>
      obtain ⟨e0, e1, -⟩ := sextets_of_join v0 v1 0#6 0#6
      refine ⟨v0 ++ v1 ++ 0#6 ++ 0#6, ?_, ?_, ?_⟩
      · rw [e0, b64Value_eq_some_iff.1 h0]
      · rw [e1, b64Value_eq_some_iff.1 h1]
      · rw [← byte_of_two_sextets v0 v1 0#6 0#6, Option.some.inj h]
    next => cases h
  · rintro ⟨v, rfl, rfl, rfl⟩
    have b0 := byte_of_two_sextets (v.extractLsb' 18 6) (v.extractLsb' 12 6) (v.extractLsb' 6 6) (v.extractLsb' 0 6)
    simp only [b64Group2, b64Value_b64Char, b0, join_sextets]

/-- A group of four alphabet characters is decoded on its own, whether or not it is the last. -/
theorem b64Decode_group (h : b64Decode us = some d) :
    b64Decode
        (b64Char (v.extractLsb' 18 6) :: b64Char (v.extractLsb' 12 6) :: b64Char (v.extractLsb' 6 6) ::
          b64Char (v.extractLsb' 0 6) :: us) =
      some (v.extractLsb' 16 8 :: v.extractLsb' 8 8 :: v.extractLsb' 0 8 :: d) := by
  have hgroup := b64Group_eq_some_iff.2 ⟨v, rfl, rfl, rfl, rfl, rfl⟩
  cases us with
  | nil =>
    cases h
    rw [b64Decode, b64Last, if_neg (b64Char_ne_padChar _), hgroup]
  | cons c us => simp only [b64Decode, hgroup, h, List.cons_append, List.nil_append]

/-- The decoder gives a text the bytes it stands for, and fails on the texts that stand for none. -/
theorem b64Decode_eq_some_iff : b64Decode us = some d ↔ Base64Of us d := by
  constructor
  · intro h
    induction us using b64Decode.induct generalizing d with
    | case1 =>
      cases h
      exact .nil
    | case2 c0 c1 c2 c3 =>
      rw [b64Decode, b64Last] at h
      split_ifs at h with h3 h2
      · obtain ⟨v, rfl, rfl, rfl⟩ := b64Group2_eq_some_iff.1 h
        exact h3 ▸ h2 ▸ .one v
      · obtain ⟨v, rfl, rfl, rfl, rfl⟩ := b64Group3_eq_some_iff.1 h
        exact h3 ▸ .two v
      · obtain ⟨v, rfl, rfl, rfl, rfl, rfl⟩ := b64Group_eq_some_iff.1 h
        exact .group v .nil
    | case3 c0 c1 c2 c3 rest hrest g d' hd hg ih =>
      obtain ⟨v, rfl, rfl, rfl, rfl, rfl⟩ := b64Group_eq_some_iff.1 hg
      obtain rfl := Option.some.inj ((b64Decode_group v hd).symm.trans h)
      exact .group v (ih hd)
    | case4 c0 c1 c2 c3 rest hrest hnone =>
      simp only [b64Decode] at h
      cases h
    | case5 us h0 h4 hcons =>
      simp only [b64Decode] at h
      cases h
  · intro h
    induction h with
    | nil => rfl
    | one v =>
      rw [b64Decode, b64Last, if_pos rfl, if_pos rfl]
      exact b64Group2_eq_some_iff.2 ⟨v, rfl, rfl, rfl⟩
    | two v =>
      rw [b64Decode, b64Last, if_pos rfl, if_neg (b64Char_ne_padChar _)]
      exact b64Group3_eq_some_iff.2 ⟨v, rfl, rfl, rfl, rfl⟩
    | group v _ ih => exact b64Decode_group v ih

end

/-! ## The round trip (R244) -/

/-- The encoder makes of every byte string a text that stands for it. -/
theorem base64Of_b64Encode (d : List Byte) : Base64Of (b64Encode d) d := by
  induction d using b64Encode.induct with
  | case1 => exact .nil
  | case2 g0 =>
    obtain ⟨e0, -⟩ := bytes_of_join g0 0#8 0#8
    have h := Base64Of.one (g0 ++ 0#8 ++ 0#8)
    rwa [e0] at h
  | case3 g0 g1 =>
    obtain ⟨e0, e1, -⟩ := bytes_of_join g0 g1 0#8
    have h := Base64Of.two (g0 ++ g1 ++ 0#8)
    rwa [e0, e1] at h
  | case4 g0 g1 g2 rest ih =>
    obtain ⟨e0, e1, e2⟩ := bytes_of_join g0 g1 g2
    have h := Base64Of.group (g0 ++ g1 ++ g2) ih
    rwa [e0, e1, e2] at h

theorem unusedBitsZero_of_append {us vs : List CodeUnit} (h : UnusedBitsZero (us ++ vs)) : UnusedBitsZero vs := by
  obtain ⟨h2, h1⟩ := h
  refine ⟨fun init c0 c1 e => h2 (us ++ init) c0 c1 ?_, fun init c0 c1 c2 e => h1 (us ++ init) c0 c1 c2 ?_⟩ <;>
    rw [e, List.append_assoc]

/-- A text whose unused bits are zero is the one the encoder makes of its bytes. -/
theorem b64Encode_of_base64Of {us : List CodeUnit} {d : List Byte} (h : Base64Of us d) (hu : UnusedBitsZero us) :
    b64Encode d = us := by
  induction h with
  | nil => rfl
  | one v =>
    have hzero := hu.1 [] _ _ rfl
    rw [charValue_b64Char] at hzero
    obtain ⟨e0, e1⟩ := sextets_of_one_byte v hzero
    rw [b64Encode, e0, e1]
  | two v =>
    have hzero := hu.2 [] _ _ _ rfl (b64Char_ne_padChar _)
    rw [charValue_b64Char] at hzero
    obtain ⟨e0, e1, e2⟩ := sextets_of_two_bytes v hzero
    rw [b64Encode, e0, e1, e2]
  | group v _ ih => rw [b64Encode, join_bytes, ih (unusedBitsZero_of_append (us := [_, _, _, _]) hu)]

end Sys2Proof.Machine
end

section
/-! PROOF. Base64 character by character and byte by byte (46_codecs.md R240, R241), and the texts the decoder fails on
(R241 (a) to (d)). -/

namespace Sys2Proof.Machine

open Sys2Proof.Claims

/-! ## Every character of an encoding (R240) -/

theorem groupOfBytes_zero (g0 g1 g2 : Byte) (rest : List Byte) :
    groupOfBytes (g0 :: g1 :: g2 :: rest) 0 = (g0 ++ g1 ++ g2).toNat := by
  rw [toNat_append, toNat_append]
  simp [groupOfBytes]
  omega

theorem groupOfBytes_zero_one (g0 : Byte) : groupOfBytes [g0] 0 = (g0 ++ 0#8 ++ 0#8).toNat := by
  rw [toNat_append, toNat_append]
  simp [groupOfBytes]
  omega

theorem groupOfBytes_zero_two (g0 g1 : Byte) : groupOfBytes [g0, g1] 0 = (g0 ++ g1 ++ 0#8).toNat := by
  rw [toNat_append, toNat_append]
  simp [groupOfBytes]
  omega

theorem groupOfBytes_succ (g0 g1 g2 : Byte) (rest : List Byte) (g : Nat) :
    groupOfBytes (g0 :: g1 :: g2 :: rest) (g + 1) = groupOfBytes rest g := by
  simp [groupOfBytes, Nat.mul_add]

theorem toNat_b64Char_extractLsb' (v : BitVec 24) (lo : Nat) :
    some (b64Char (v.extractLsb' lo 6)).toNat = alphabet[v.toNat / 2 ^ lo % 2 ^ 6]? := by
  rw [← toNat_extractLsb', alphabet_getElem?]

theorem length_b64Encode (d : List Byte) : (b64Encode d).length = 4 * ((d.length + 2) / 3) := by
  induction d using b64Encode.induct with
  | case1 => rfl
  | case2 g0 | case3 g0 g1 => simp [b64Encode]
  | case4 g0 g1 g2 rest ih =>
    simp only [b64Encode, List.length_cons, ih]
    omega

/-- The character at `j` is the one of its 6 bits, or `=` where the group has no byte for it. -/
theorem getElem?_b64Encode (d : List Byte) (j : Nat) (hj : j < (b64Encode d).length) :
    ((b64Encode d)[j]?).map BitVec.toNat =
      if d.length < 3 * (j / 4) + j % 4 then some 0x3D
      else alphabet[groupOfBytes d (j / 4) / 2 ^ (18 - 6 * (j % 4)) % 2 ^ 6]? := by
  induction d using b64Encode.induct generalizing j with
  | case1 => cases hj
  | case2 g0 =>
    match j, hj with
    | 0, _ | 1, _ => simpa [-Nat.reducePow, b64Encode, groupOfBytes_zero_one] using toNat_b64Char_extractLsb' _ _
    | 2, _ | 3, _ => rfl
  | case3 g0 g1 =>
    match j, hj with
    | 0, _ | 1, _ | 2, _ => simpa [-Nat.reducePow, b64Encode, groupOfBytes_zero_two] using toNat_b64Char_extractLsb' _ _
    | 3, _ => rfl
  | case4 g0 g1 g2 rest ih =>
    match j, hj with
    | 0, _ | 1, _ | 2, _ =>
      simpa [-Nat.reducePow, b64Encode, groupOfBytes_zero] using toNat_b64Char_extractLsb' (g0 ++ g1 ++ g2) _
    | 3, _ =>
      have hfull : ¬ rest.length + 1 + 1 + 1 < 3 := by omega
      simpa [-Nat.reducePow, b64Encode, groupOfBytes_zero, hfull] using toNat_b64Char_extractLsb' (g0 ++ g1 ++ g2) 0
    | j + 4, hj =>
      have hlen : (g0 :: g1 :: g2 :: rest).length < 3 * (j / 4 + 1) + j % 4 ↔ rest.length < 3 * (j / 4) + j % 4 := by
        simp only [List.length_cons]
        omega
      simp only [Nat.add_div_right j (Nat.succ_pos 3), Nat.add_mod_right, groupOfBytes_succ, hlen]
      exact ih j (by simpa [b64Encode] using hj)

/-! ## Every byte of a decoding (R241) -/

theorem groupNumber_zero (c0 c1 c2 c3 : CodeUnit) (us : List CodeUnit) :
    groupNumber (c0 :: c1 :: c2 :: c3 :: us) 0 =
      charValue c0 * 2 ^ 18 + charValue c1 * 2 ^ 12 + charValue c2 * 2 ^ 6 + charValue c3 := by
  simp [groupNumber]

theorem groupNumber_succ (c0 c1 c2 c3 : CodeUnit) (us : List CodeUnit) (g : Nat) :
    groupNumber (c0 :: c1 :: c2 :: c3 :: us) (g + 1) = groupNumber us g := by
  simp [groupNumber, Nat.mul_add]

section

variable {us : List CodeUnit} {d : List Byte}

theorem Base64Of.length_add_count (h : Base64Of us d) : d.length + us.count padChar = 3 * (us.length / 4) := by
  induction h with
  | nil => rfl
  | one v => simp
  | two v => simp
  | group v _ ih =>
    simp
    omega

theorem Base64Of.getElem? (h : Base64Of us d) (k : Nat) (hk : k < d.length) :
    (d[k]?).map BitVec.toNat = some (groupNumber us (k / 3) / 2 ^ (16 - 8 * (k % 3)) % 2 ^ 8) := by
  induction h generalizing k with
  | nil => cases hk
  | one v =>
    match k, hk with
    | 0, _ =>
      simp [groupNumber_zero]
      omega
  | two v =>
    match k, hk with
    | 0, _ | 1, _ =>
      simp [groupNumber_zero]
      omega
  | group v _ ih =>
    match k, hk with
    | 0, _ | 1, _ | 2, _ =>
      simp [groupNumber_zero]
      omega
    | k + 3, hk =>
      rw [Nat.add_div_right k (by decide), Nat.add_mod_right, groupNumber_succ]
      exact ih k (by simpa using hk)

end

/-! ## The texts the decoder fails on (R241) -/

/-- A `=` may stand at `k`: last, or before another one that is last. -/
def PadAllowed (us : List CodeUnit) (k : Nat) : Prop :=
  k + 1 = us.length ∨ k + 2 = us.length ∧ us[k + 1]? = some padChar

/-- The texts of R241: groups of four, each character in the alphabet or a `=` where one may stand. -/
def Base64Text (us : List CodeUnit) : Prop :=
  us.length % 4 = 0 ∧ ∀ k c, us[k]? = some c → c.toNat ∈ alphabet ∨ c = padChar ∧ PadAllowed us k

/-- R241 (d) follows from (a) and (c). -/
theorem base64Text_iff_not_badBase64 (us : List CodeUnit) : Base64Text us ↔ ¬ BadBase64 us := by
  constructor
  · rintro ⟨ha, hk⟩ (h | ⟨c, hmem, hc, hp⟩ | ⟨k, hlt, hpad, h1, h2⟩ | ⟨k, hlt, hpad, h2⟩)
    · exact h ha
    · obtain ⟨k, hc'⟩ := List.getElem?_of_mem hmem
      obtain h | ⟨rfl, -⟩ := hk k c hc'
      · exact hc h
      · exact hp rfl
    · obtain h | ⟨-, h | h⟩ := hk k _ hpad
      · exact padChar_not_mem_alphabet h
      · exact h1 h
      · exact h2 h
    · obtain h | ⟨-, h | ⟨h, -⟩⟩ := hk k _ hpad
      · exact padChar_not_mem_alphabet h
      · omega
      · omega
  · intro h
    obtain ⟨ha, hb, hc, -⟩ : _ ∧ _ ∧ _ ∧ _ := by simpa only [BadBase64, not_or] using h
    refine ⟨not_not.1 ha, fun k c hk => or_iff_not_imp_left.2 fun hal => ?_⟩
    obtain rfl : c = padChar := by
      by_contra hne
      exact hb ⟨c, List.mem_of_getElem? hk, hal, fun h => hne (BitVec.eq_of_toNat_eq h)⟩
    refine ⟨rfl, ?_⟩
    by_contra hnot
    obtain ⟨h1, h2⟩ := not_or.1 hnot
    exact hc ⟨k, (List.getElem?_eq_some_iff.1 hk).1, hk, h1, h2⟩

section

variable {c0 c1 c2 c3 : CodeUnit} {us : List CodeUnit}

theorem padAllowed_cons4 (k : Nat) : PadAllowed (c0 :: c1 :: c2 :: c3 :: us) (k + 4) ↔ PadAllowed us k := by
  simp only [PadAllowed, List.length_cons]
  exact or_congr (by omega) (and_congr (by omega) Iff.rfl)

/-- The first group holds `=` only if it is the last: as its last character or its last two. -/
theorem base64Text_cons4 :
    Base64Text (c0 :: c1 :: c2 :: c3 :: us) ↔
      c0.toNat ∈ alphabet ∧ c1.toNat ∈ alphabet ∧ (c2.toNat ∈ alphabet ∨ c2 = padChar ∧ us = [] ∧ c3 = padChar) ∧
        (c3.toNat ∈ alphabet ∨ c3 = padChar ∧ us = []) ∧ Base64Text us := by
  have h0 : ¬ PadAllowed (c0 :: c1 :: c2 :: c3 :: us) 0 := by simp [PadAllowed]
  have h1 : ¬ PadAllowed (c0 :: c1 :: c2 :: c3 :: us) 1 := by simp [PadAllowed]
  have h2 : PadAllowed (c0 :: c1 :: c2 :: c3 :: us) 2 ↔ us = [] ∧ c3 = padChar := by simp [PadAllowed]
  have h3 (h4 : us.length % 4 = 0) : PadAllowed (c0 :: c1 :: c2 :: c3 :: us) 3 ↔ us = [] := by
    constructor
    · rintro (h | ⟨h, -⟩)
      · simpa using h
      · rw [List.length_cons, List.length_cons, List.length_cons, List.length_cons] at h
        omega
    · rintro rfl
      exact .inl rfl
  have hmod : (c0 :: c1 :: c2 :: c3 :: us).length % 4 = us.length % 4 := Nat.add_mod_right us.length 4
  constructor
  · rintro ⟨h4, hk⟩
    rw [hmod] at h4
    refine ⟨by simpa [h0] using hk 0 c0 rfl, by simpa [h1] using hk 1 c1 rfl, by simpa only [h2] using hk 2 c2 rfl,
      by simpa only [h3 h4] using hk 3 c3 rfl, h4, fun k c hc => ?_⟩
    simpa only [padAllowed_cons4] using hk (k + 4) c hc
  · rintro ⟨k0, k1, k2, k3, h4, hk⟩
    refine ⟨hmod.trans h4, fun k c hc => ?_⟩
    match k, hc with
    | 0, rfl => exact .inl k0
    | 1, rfl => exact .inl k1
    | 2, rfl => simpa only [h2] using k2
    | 3, rfl => simpa only [h3 h4] using k3
    | k + 4, hc => simpa only [padAllowed_cons4] using hk k c hc

theorem base64Text_of_base64Of {d : List Byte} (h : Base64Of us d) : Base64Text us := by
  have nil : Base64Text [] := by simp [Base64Text]
  induction h with
  | nil => exact nil
  | one v | two v => simp [base64Text_cons4, nil]
  | group v _ ih => simp [base64Text_cons4, ih]

theorem exists_group_of_mem_alphabet (h0 : c0.toNat ∈ alphabet) (h1 : c1.toNat ∈ alphabet)
    (h2 : c2.toNat ∈ alphabet) (h3 : c3.toNat ∈ alphabet) :
    ∃ v : BitVec 24, c0 = b64Char (v.extractLsb' 18 6) ∧ c1 = b64Char (v.extractLsb' 12 6) ∧
      c2 = b64Char (v.extractLsb' 6 6) ∧ c3 = b64Char (v.extractLsb' 0 6) := by
  obtain ⟨v0, rfl⟩ := mem_alphabet_iff.1 h0
  obtain ⟨v1, rfl⟩ := mem_alphabet_iff.1 h1
  obtain ⟨v2, rfl⟩ := mem_alphabet_iff.1 h2
  obtain ⟨v3, rfl⟩ := mem_alphabet_iff.1 h3
  obtain ⟨e0, e1, e2, e3⟩ := sextets_of_join v0 v1 v2 v3
  exact ⟨v0 ++ v1 ++ v2 ++ v3, by rw [e0], by rw [e1], by rw [e2], by rw [e3]⟩

end

theorem exists_base64Of : (us : List CodeUnit) → Base64Text us → ∃ d, Base64Of us d
  | [], _ => ⟨_, .nil⟩
  | [_], h | [_, _], h | [_, _, _], h => absurd h.1 (by simp)
  | c0 :: c1 :: c2 :: c3 :: us, h => by
    obtain ⟨h0, h1, h2, h3, hus⟩ := base64Text_cons4.1 h
    obtain ⟨d, hd⟩ := exists_base64Of us hus
    obtain h3 | ⟨rfl, rfl⟩ := h3
    · obtain h2 | ⟨-, -, rfl⟩ := h2
      · obtain ⟨v, rfl, rfl, rfl, rfl⟩ := exists_group_of_mem_alphabet h0 h1 h2 h3
        exact ⟨_, .group v hd⟩
      · exact absurd h3 padChar_not_mem_alphabet
    · obtain h2 | ⟨rfl, -⟩ := h2
      · obtain ⟨v, rfl, rfl, rfl, -⟩ := exists_group_of_mem_alphabet h0 h1 h2 h2
        exact ⟨_, .two v⟩
      · obtain ⟨v, rfl, rfl, -⟩ := exists_group_of_mem_alphabet h0 h1 h1 h1
        exact ⟨_, .one v⟩

/-- The decoder fails exactly on the texts of R241 (a) to (d). -/
theorem b64Decode_eq_none_iff (us : List CodeUnit) : b64Decode us = none ↔ BadBase64 us := by
  refine not_iff_not.1 (Option.ne_none_iff_exists'.trans ?_)
  simp only [b64Decode_eq_some_iff, ← base64Text_iff_not_badBase64]
  exact ⟨fun ⟨_, h⟩ => base64Text_of_base64Of h, exists_base64Of us⟩

end Sys2Proof.Machine
end

section
/-! PROOF. The hex display by its places (46_codecs.md R250): three characters to a byte, but the last. -/

namespace Sys2Proof.Machine

open Sys2Proof.Claims

theorem hexCharacters_getElem? (v : BitVec 4) : some (hexDigit v).toNat = hexCharacters[v.toNat]? := by
  revert v; decide

@[simp] theorem length_hexByte (b : Byte) : (hexByte b).length = 2 := rfl

/-- The two digits of a byte, where they open a text. -/
theorem getElem?_hexByte_append (b : Byte) (us : List CodeUnit) :
    ((hexByte b ++ us)[0]?).map BitVec.toNat = hexCharacters[b.toNat / 16]? ∧
      ((hexByte b ++ us)[1]?).map BitVec.toNat = hexCharacters[b.toNat % 16]? := by
  have hhigh : (b.extractLsb' 4 4).toNat = b.toNat / 16 := by
    rw [toNat_extractLsb']
    omega
  have hlow : (b.extractLsb' 0 4).toNat = b.toNat % 16 := by
    rw [toNat_extractLsb']
    omega
  rw [← hhigh, ← hlow, ← hexCharacters_getElem?, ← hexCharacters_getElem?]
  exact ⟨rfl, rfl⟩

theorem length_hexText (d : List Byte) : (hexText d).length = 3 * d.length - 1 := by
  induction d using hexText.induct with
  | case1 => rfl
  | case2 b => rfl
  | case3 b rest hrest ih =>
    obtain ⟨c, rest, rfl⟩ := List.exists_cons_of_ne_nil hrest
    rw [hexText_cons, List.length_append, List.length_cons, ih, length_hexByte]
    simp only [List.length_cons]
    omega

theorem getElem?_hexText (d : List Byte) (k : Nat) (b : Byte) (hb : d[k]? = some b) :
    ((hexText d)[3 * k]?).map BitVec.toNat = hexCharacters[b.toNat / 16]? ∧
      ((hexText d)[3 * k + 1]?).map BitVec.toNat = hexCharacters[b.toNat % 16]? ∧
      (k + 1 < d.length → (hexText d)[3 * k + 2]? = some 0x20#16) := by
  induction d using hexText.induct generalizing k with
  | case1 => cases hb
  | case2 a =>
    cases k with
    | zero =>
      cases hb
      obtain ⟨hhigh, hlow⟩ := getElem?_hexByte_append b []
      exact ⟨hhigh, hlow, fun h => absurd h (Nat.lt_irrefl 1)⟩
    | succ k => cases hb
  | case3 a rest hrest ih =>
    obtain ⟨c, rest, rfl⟩ := List.exists_cons_of_ne_nil hrest
    rw [hexText_cons]
    cases k with
    | zero =>
      cases hb
      obtain ⟨hhigh, hlow⟩ := getElem?_hexByte_append b (0x20#16 :: hexText (c :: rest))
      exact ⟨hhigh, hlow, fun _ => rfl⟩
    | succ k =>
      obtain ⟨hhigh, hlow, hspace⟩ := ih k hb
      exact ⟨hhigh, hlow, fun h => hspace (Nat.lt_of_succ_lt_succ h)⟩

end Sys2Proof.Machine
end

section
/-! PROOF. The obligations of 46_codecs.md. -/

namespace Sys2Proof.Laws

open Sys2Proof.Machine Sys2Proof.Claims

/-! ## UTF-8 -/

/-- Settles O51, by induction along the encoder: the decoder reads back each surrogate pair and each unit. -/
theorem utf8RoundTrip : Obligations.Utf8RoundTrip := utf8Decode_utf8Encode

/-- Settles O49: the encoder's two cases, the bytes of each as numbers. -/
theorem utf8EncodeRule : Obligations.Utf8EncodeRule := by
  refine ⟨hasOnlyWord_of_encode_eq rfl rfl, fun _ hmal => congrArg _ (withText_of_malformed rfl (fun _ => rfl) hmal),
    fun s us hin hadm => congrArg _ (withText_of s _ us hin hadm), utf8Encode_nil, fun x y rest h => ?_,
    fun x rest h => ?_⟩
  · rw [utf8Encode_of_pair h, utf8Pair_eq h]
  · rw [utf8Encode_of_not_pair h, utf8Unit_eq]

/-- Settles O50: a clause for each class of lead byte; a byte is skipped alone where its class asks for no length or for
more bytes than there are. -/
theorem utf8DecodeRule : Obligations.Utf8DecodeRule := by
  refine ⟨hasOnlyWord_of_encode_eq rfl rfl, fun _ hmal => congrArg _ (withBytes_of_malformed rfl (fun _ => rfl) hmal),
    fun s bs hin hadm => congrArg _ (withBytes_of anyLength s _ bs hin rfl hadm), utf8Decode_nil,
    fun b rest h => utf8Decode_one rest h, fun b rest h => ?_, fun b rest h => ?_,
    fun b b1 rest => utf8Decode_two rest, fun b b1 b2 rest => utf8Decode_three rest,
    fun b b1 b2 b3 rest h h' => ?_⟩
  · exact utf8Decode_skip (by simp [utf8Need_none h])
  · obtain ⟨h, h', hlen⟩ | ⟨h, h', hlen⟩ | ⟨h, h', hlen⟩ := h
    · exact utf8Decode_truncated (utf8Need_two h h') (Nat.succ_lt_succ hlen)
    · exact utf8Decode_truncated (utf8Need_three h h') (Nat.succ_lt_succ hlen)
    · exact utf8Decode_truncated (utf8Need_four h h') (Nat.succ_lt_succ hlen)
  · rw [← toNat_value4]
    refine ⟨fun hbig => ?_, fun hlo hhi => ?_, fun hlt => ?_⟩
    · exact utf8Decode_four_skip rest h h' (Nat.not_le_of_lt hbig)
    · rw [utf8Decode_four rest h h' hhi, unitsOfValue_of_le hlo hhi]
      rfl
    · rw [utf8Decode_four rest h h' (BitVec.le_def.2 (by rw [BitVec.toNat_ofNat]; omega)), unitsOfValue_of_lt hlt]
      rfl

/-! ## Base64 -/

/-- Settles O54: a text the encoder makes stands for its bytes, and one with its unused bits zero is the encoder's. -/
theorem base64RoundTrip : Obligations.Base64RoundTrip :=
  ⟨fun d => b64Decode_eq_some_iff.2 (base64Of_b64Encode d), fun _ _ hd hu =>
    b64Encode_of_base64Of (b64Decode_eq_some_iff.1 hd) hu⟩

section

variable {s : State} {us : List CodeUnit} {d : List Byte}

theorem exec_b64dec_of_some (hin : s.input = .text us) (hadm : Admits s us.length) (hd : b64Decode us = some d) :
    exec .b64dec s = .next (answered s (.bytes d)) := by
  refine congrArg _ ((withText_of s _ us hin hadm).trans ?_)
  simp only [hd, respond_eq_answered]

theorem exec_b64dec_of_none (hin : s.input = .text us) (hadm : Admits s us.length) (hd : b64Decode us = none) :
    exec .b64dec s = .next (rejected s 0x03#8) := by
  refine congrArg _ ((withText_of s _ us hin hadm).trans ?_)
  simp only [hd, raise_eq_rejected, statusCode]

end

/-- Settles O52: character by character, along the encoder's groups. -/
theorem base64EncodeRule : Obligations.Base64EncodeRule :=
  ⟨hasOnlyWord_of_encode_eq rfl rfl, fun _ hmal => congrArg _ (withBytes_of_malformed rfl (fun _ => rfl) hmal),
    fun s d hin hadm => ⟨b64Encode d, congrArg _ (withBytes_of anyLength s _ d hin rfl hadm), length_b64Encode d,
      getElem?_b64Encode d⟩⟩

/-- Settles O53: the texts that stand for bytes are those that are not bad, and those bytes are read off the groups. -/
theorem base64DecodeRule : Obligations.Base64DecodeRule := by
  refine ⟨hasOnlyWord_of_encode_eq rfl rfl, fun _ hmal => congrArg _ (withText_of_malformed rfl (fun _ => rfl) hmal),
    fun s us hin hadm => ⟨fun hbad => ?_, fun hgood => ?_⟩⟩
  · exact exec_b64dec_of_none hin hadm ((b64Decode_eq_none_iff us).2 hbad)
  · obtain ⟨d, hd⟩ := exists_base64Of us ((base64Text_iff_not_badBase64 us).2 hgood)
    exact ⟨d, exec_b64dec_of_some hin hadm (b64Decode_eq_some_iff.2 hd), hd.length_add_count, hd.getElem?⟩

/-! ## The hex display -/

/-- Settles O55: the text is three characters a byte, the last without its space. -/
theorem hexofRule : Obligations.HexofRule :=
  ⟨hasOnlyWord_of_encode_eq rfl rfl, fun _ hmal => congrArg _ (withBytes_of_malformed rfl (fun _ => rfl) hmal),
    fun s d hin hadm => ⟨hexText d, congrArg _ (withBytes_of anyLength s _ d hin rfl hadm), length_hexText d,
      getElem?_hexText d⟩⟩

end Sys2Proof.Laws
end

section
/-! PROOF. The chain of ENCRYPT and the chain of DECRYPT (47_engine_ops.md R270, R271), and the second undoing the first
part by part (R272 to R274). -/

namespace Sys2Proof.Machine

open Sys2Proof.Claims

/-! ## DECRYPT's chain, by how each part ends (R271) -/

section

variable {S : List Word} {r : Nat} {policy : UnpadPolicy} {token : List CodeUnit} {d p u : List Byte}

theorem decryptText_of_b64Decode_none (hd : b64Decode token = none) :
    decryptText S r policy token = .error .invalidCiphertext := by
  simp only [decryptText, hd]

theorem decryptText_of_cbcDecrypt_none (hd : b64Decode token = some d) (hp : cbcDecrypt S r d = none) :
    decryptText S r policy token = .error .invalidCiphertext := by
  simp only [decryptText, hd, hp]

theorem decryptText_of_unpadBytes_none (hd : b64Decode token = some d) (hp : cbcDecrypt S r d = some p)
    (hu : unpadBytes policy p = none) : decryptText S r policy token = .error .paddingValidationFailure := by
  simp only [decryptText, hd, hp, hu]

theorem decryptText_of_unpadBytes_some (hd : b64Decode token = some d) (hp : cbcDecrypt S r d = some p)
    (hu : unpadBytes policy p = some u) : decryptText S r policy token = .ok (utf8Decode u) := by
  simp only [decryptText, hd, hp, hu]

theorem not_paddedAs_of_padValid_eq_false (h : padValid d = false) (core : List Byte) : ¬ PaddedAs d core :=
  fun hpad => Bool.eq_false_iff.1 h (paddedAs_iff.1 hpad).1

end

/-! ## The token and its parts -/

section

variable (S : List Word) (r : Nat) (iv iv' : Iv) (us : List CodeUnit) (d : List Byte)

/-- Padded bytes are blocks, and at least one. -/
theorem length_padBytes_mod : (padBytes d).length % 16 = 0 := by
  rw [length_padBytes, Nat.mul_mod_right]

theorem le_length_padBytes : 16 ≤ (padBytes d).length := by
  rw [length_padBytes]
  omega

theorem length_cbcEncrypt_padBytes : (cbcEncrypt S r iv (padBytes d)).length = 16 * (2 + d.length / 16) := by
  rw [length_cbcEncrypt S r iv (length_padBytes_mod d), length_padBytes]
  omega

theorem cbcDecrypt_cbcEncrypt_padBytes :
    cbcDecrypt S r (cbcEncrypt S r iv (padBytes d)) = some (padBytes d) :=
  cbcDecrypt_cbcEncrypt S r iv (length_padBytes_mod d) (le_length_padBytes d)

theorem b64Decode_encryptText :
    b64Decode (encryptText S r iv us) = some (cbcEncrypt S r iv (padBytes (utf8Encode us))) :=
  b64Decode_eq_some_iff.2 (base64Of_b64Encode _)

theorem length_encryptText :
    (encryptText S r iv us).length = 4 * (((cbcEncrypt S r iv (padBytes (utf8Encode us))).length + 2) / 3) :=
  length_b64Encode _

/-- Each part of DECRYPT undoes its part of ENCRYPT, and valid padding is stripped under either policy (R273). -/
theorem decryptText_encryptText (policy : UnpadPolicy) :
    decryptText S r policy (encryptText S r iv us) = .ok us := by
  have hunpad := unpadBytes_of_paddedAs (paddedAs_padBytes (utf8Encode us)) policy
  rw [decryptText_of_unpadBytes_some (b64Decode_encryptText S r iv us)
    (cbcDecrypt_cbcEncrypt_padBytes S r iv (utf8Encode us)) hunpad, utf8Decode_utf8Encode]

/-- A token holds its IV: the first block of what it decodes to (R274). -/
theorem encryptText_inj : encryptText S r iv us = encryptText S r iv' us ↔ iv = iv' := by
  refine ⟨fun h => ?_, fun h => h ▸ rfl⟩
  have hdec := congrArg b64Decode h
  rw [b64Decode_encryptText, b64Decode_encryptText] at hdec
  have hblock := congrArg (List.take 16) (Option.some.inj hdec)
  rw [take_cbcEncrypt, take_cbcEncrypt] at hblock
  exact Vector.toList_inj.1 hblock

end

end Sys2Proof.Machine
end

section
/-! PROOF. The obligations of 47_engine_ops.md. -/

namespace Sys2Proof.Laws

open Sys2Proof.Machine Sys2Proof.Claims

section

variable {i : Instr} {s : State} {us token : List CodeUnit}

/-- A keyed command on text that passes both checks goes on with the payload. -/
theorem withText_withKey_of {f : List CodeUnit → State} (hin : s.input = .text us) (hadm : Admits s us.length)
    (hkeyed : s.keyValid = 1#1) : withText s (fun us => withKey s (f us)) = f us := by
  rw [withText_of s _ us hin hadm, withKey_eq, if_pos hkeyed]

/-- A keyed command on text, its payload well formed, gets as far as the KEYVALID check. -/
theorem withText_withKey_of_unkeyed {f : List CodeUnit → State} (hkind : declaredIn i = .text)
    (hwell : ¬ Malformed i s) (h0 : s.keyValid = 0#1) :
    withText s (fun us => withKey s (f us)) = rejected s 0x07#8 := by
  obtain ⟨us, -, -, e⟩ | ⟨hbad, -⟩ := withText_cases s fun us => withKey s (f us)
  · rw [e, withKey_eq, if_neg (by simp [h0])]
  · rw [← hkind] at hbad
    exact absurd (hbad.imp_right .inr) hwell

theorem exec_encrypt_of (hin : s.input = .text us) (hadm : Admits s us.length) (hkeyed : s.keyValid = 1#1) :
    exec .encrypt s =
      .next (answered (afterDraw s) (.text (encryptText s.table s.cfgRounds.toNat (nextDraw s) us))) := by
  refine congrArg _ ((withText_withKey_of hin hadm hkeyed).trans ?_)
  rw [draw16_eq, respond_eq_answered]

theorem exec_decrypt_of_ok (hin : s.input = .text token) (hadm : Admits s token.length) (hkeyed : s.keyValid = 1#1)
    (hus : decryptText s.table s.cfgRounds.toNat s.build.unpad token = .ok us) :
    exec .decrypt s = .next (answered s (.text us)) := by
  refine congrArg _ ((withText_withKey_of hin hadm hkeyed).trans ?_)
  simp only [hus, respond_eq_answered]

theorem exec_decrypt_of_error {e : ErrorKind} (hin : s.input = .text token) (hadm : Admits s token.length)
    (hkeyed : s.keyValid = 1#1)
    (he : decryptText s.table s.cfgRounds.toNat s.build.unpad token = .error e) :
    exec .decrypt s = .next (rejected s (statusCode e)) := by
  refine congrArg _ ((withText_withKey_of hin hadm hkeyed).trans ?_)
  simp only [he, raise_eq_rejected]

theorem exec_decrypt_of_malformed (hmal : Malformed .decrypt s) : exec .decrypt s = .next (rejected s 0x06#8) :=
  congrArg _ (withText_of_malformed rfl (fun _ => rfl) hmal)

end

/-- Settles O58: a token decodes to the IV and the blocks of the padded bytes. -/
theorem tokenLengthLaw : Obligations.TokenLengthLaw := by
  intro S r iv us len
  have hlen := length_cbcEncrypt_padBytes S r iv (utf8Encode us)
  exact ⟨_, b64Decode_encryptText S r iv us, hlen.trans (by omega), hlen, length_encryptText S r iv us⟩

/-- Settles O59: the token is one under some IV, and DECRYPT reads only the table registers and the policy. -/
theorem encryptDecryptRoundTrip : Obligations.EncryptDecryptRoundTrip := by
  intro s us hin hadm hkeyed
  refine ⟨_, _, exec_encrypt_of hin hadm hkeyed, rfl, fun t htoken htkeyed hrounds htable => ?_⟩
  split
  next hfits =>
    refine exec_decrypt_of_ok htoken hfits htkeyed ?_
    rw [hrounds, htable, decryptText_encryptText]
  next hlong => exact exec_decrypt_of_malformed (.inr (.inr (by rwa [htoken])))

/-- Settles O60: the token holds the IV it was made with, and DECRYPT needs no other. -/
theorem tokensDifferExactlyWhenDrawsDiffer : Obligations.TokensDifferExactlyWhenDrawsDiffer := fun S r iv iv' us =>
  ⟨not_congr (encryptText_inj S r iv iv' us), fun policy =>
    ⟨decryptText_encryptText S r iv us policy, decryptText_encryptText S r iv' us policy⟩⟩

/-- Settles O56: past both checks ENCRYPT takes one draw and answers the token under it. -/
theorem encryptRule : Obligations.EncryptRule :=
  ⟨hasOnlyWord_of_encode_eq rfl rfl, fun _ hmal => congrArg _ (withText_of_malformed rfl (fun _ => rfl) hmal),
    fun _ hwell h0 => congrArg _ (withText_withKey_of_unkeyed rfl hwell h0), fun _ _ => exec_encrypt_of⟩

/-- Settles O57: past both checks the first part of the chain that fails gives the status. -/
theorem decryptRule : Obligations.DecryptRule := by
  refine ⟨hasOnlyWord_of_encode_eq rfl rfl, fun _ => exec_decrypt_of_malformed,
    fun _ hwell h0 => congrArg _ (withText_withKey_of_unkeyed rfl hwell h0), fun s us hin hadm hkeyed =>
    ⟨fun hnone => ?_, fun d hd => ⟨fun hbad => ?_, fun p hp =>
      ⟨fun hvalid => ?_, fun hinvalid hopen => ?_, fun hinvalid hclosed => ?_⟩⟩⟩⟩
  · exact exec_decrypt_of_error hin hadm hkeyed (decryptText_of_b64Decode_none hnone)
  · exact exec_decrypt_of_error hin hadm hkeyed (decryptText_of_cbcDecrypt_none hd (cbcDecrypt_of_bad _ _ hbad))
  · have hpad : PaddedAs p (stripPad p) := paddedAs_iff.2 ⟨hvalid, rfl⟩
    exact exec_decrypt_of_ok hin hadm hkeyed (decryptText_of_unpadBytes_some hd hp (unpadBytes_of_paddedAs hpad _))
  · have hnone := not_paddedAs_of_padValid_eq_false hinvalid
    exact exec_decrypt_of_ok hin hadm hkeyed
      (decryptText_of_unpadBytes_some hd hp (hopen ▸ unpadBytes_failOpen hnone))
  · have hnone := not_paddedAs_of_padValid_eq_false hinvalid
    exact exec_decrypt_of_error hin hadm hkeyed
      (decryptText_of_unpadBytes_none hd hp (hclosed ▸ unpadBytes_failClosed hnone))

end Sys2Proof.Laws
end

section
/-! PROOF. The checks of a command against the order of errors (60_exceptions.md R302): `ReportsFirst` goes down a list
of errors, and each operand form and each check of a command is one entry of that list. -/

namespace Sys2Proof.Laws

open Sys2Proof.Machine Sys2Proof.Claims

variable {A : ErrorKind → Prop} {i : Instr} {s t : State} {order : List ErrorKind} {k : KFields}

/-! ## The first error of a list -/

/-- `t` is `s` after the first error of a list that applies, or after a success where none of them does. -/
inductive ReportsFirst (A : ErrorKind → Prop) (s : State) : List ErrorKind → State → Prop where
  /-- The error at the head applies, and ends the command. -/
  | first {e : ErrorKind} {order : List ErrorKind} (h : A e) :
      ReportsFirst A s (e :: order) (rejected s (statusCode e))
  /-- The error at the head does not apply. -/
  | later {e : ErrorKind} {order : List ErrorKind} {t : State} (h : ¬ A e) (ht : ReportsFirst A s order t) :
      ReportsFirst A s (e :: order) t
  /-- No error is left. -/
  | ok {t : State} (h : t.status = 0x00#8) : ReportsFirst A s [] t

/-- The error that ends a command applies, and none that stands before it in the list does. -/
theorem ReportsFirst.error_or_ok (h : ReportsFirst A s order t) (hnodup : order.Nodup) :
    (∃ e, (A e ∧ ∀ before after, order = before ++ e :: after → ∀ e' ∈ before, ¬ A e') ∧
      t = rejected s (statusCode e)) ∨
    (∀ e ∈ order, ¬ A e) ∧ t.status = 0x00#8 := by
  induction h with
  | @first e order h =>
    refine .inl ⟨e, ⟨h, fun before after hsplit e' hmem => ?_⟩, rfl⟩
    cases before with
    | nil => cases hmem
    | cons b before =>
      obtain ⟨-, rfl⟩ := List.cons.inj hsplit
      simp at hnodup
  | @later e order t h _ ih =>
    obtain ⟨e₁, ⟨h₁, hbefore⟩, ht⟩ | ⟨hnone, hok⟩ := ih hnodup.of_cons
    · refine .inl ⟨e₁, ⟨h₁, fun before after hsplit e' hmem => ?_⟩, ht⟩
      cases before with
      | nil => cases hmem
      | cons b before =>
        obtain ⟨rfl, hrest⟩ := List.cons.inj hsplit
        rcases List.mem_cons.1 hmem with rfl | hmem
        · exact h
        · exact hbefore before after hrest e' hmem
    · exact .inr ⟨List.forall_mem_cons.2 ⟨h, hnone⟩, hok⟩
  | ok h => exact .inr ⟨nofun, h⟩

/-- A success, where none of the errors applies. -/
theorem reportsFirst_of_ok (hnone : ∀ e ∈ order, ¬ A e) (ht : t.status = 0x00#8) : ReportsFirst A s order t := by
  induction order with
  | nil => exact .ok ht
  | cons e order ih =>
    obtain ⟨he, hrest⟩ := List.forall_mem_cons.1 hnone
    exact .later he (ih hrest)

/-! ## The payload check (R306) -/

theorem reportsFirst_withBytes {ok : Nat → Bool} {f : List Byte → State} (hkind : declaredIn i = .bytes)
    (hrule : ∀ n, lengthRule i n = ok n)
    (h : ∀ bs, s.input = .bytes bs → ReportsFirst (ErrorApplies i s) s order (f bs)) :
    ReportsFirst (ErrorApplies i s) s (.malformedPayload :: order) (withBytes ok s f) := by
  obtain ⟨bs, hin, hok, hadm, e⟩ | ⟨hbad, e⟩ := withBytes_cases ok s f <;> rw [e]
  · refine .later (fun hmal : Malformed i s => ?_) (h bs hin)
    simp [Malformed, hin, hkind, hrule, Payload.kind, Payload.length, hok, hadm] at hmal
  · rw [← hkind, ← hrule] at hbad
    exact .first (e := .malformedPayload) hbad

theorem reportsFirst_withText {f : List CodeUnit → State} (hkind : declaredIn i = .text)
    (hrule : ∀ n, lengthRule i n = true)
    (h : ∀ us, s.input = .text us → ReportsFirst (ErrorApplies i s) s order (f us)) :
    ReportsFirst (ErrorApplies i s) s (.malformedPayload :: order) (withText s f) := by
  obtain ⟨us, hin, hadm, e⟩ | ⟨hbad, e⟩ := withText_cases s f <;> rw [e]
  · refine .later (fun hmal : Malformed i s => ?_) (h us hin)
    simp [Malformed, hin, hkind, hrule, Payload.kind, Payload.length, hadm] at hmal
  · rw [← hkind] at hbad
    exact .first (e := .malformedPayload) (hbad.imp_right .inr)

theorem reportsFirst_withWords {f : List Word → State} (hkind : declaredIn i = .words)
    (hrule : ∀ n, lengthRule i n = true) (h : ∀ ws, ReportsFirst (ErrorApplies i s) s order (f ws)) :
    ReportsFirst (ErrorApplies i s) s (.malformedPayload :: order) (withWords s f) := by
  obtain ⟨ws, hin, hadm, e⟩ | ⟨hbad, e⟩ := withWords_cases s f <;> rw [e]
  · refine .later (fun hmal : Malformed i s => ?_) (h ws)
    simp [Malformed, hin, hkind, hrule, Payload.kind, Payload.length, hadm] at hmal
  · rw [← hkind] at hbad
    exact .first (e := .malformedPayload) (hbad.imp_right .inr)

theorem reportsFirst_withTwoWords {f : Word → Word → State} (hkind : declaredIn i = .words)
    (hrule : ∀ n, lengthRule i n = (n == 2)) (h : ∀ a b, ReportsFirst (ErrorApplies i s) s order (f a b)) :
    ReportsFirst (ErrorApplies i s) s (.malformedPayload :: order) (withTwoWords s f) := by
  obtain ⟨a, b, hin, hadm, e⟩ | ⟨hbad, e⟩ := withTwoWords_cases s f <;> rw [e]
  · refine .later (fun hmal : Malformed i s => ?_) (h a b)
    simp [Malformed, hin, hkind, hrule, Payload.kind, Payload.length, hadm] at hmal
  · rw [← hkind, ← hrule] at hbad
    exact .first (e := .malformedPayload) hbad

/-! ## The KEYVALID check (R307) -/

theorem reportsFirst_withKey {u : State} (hkeyed : keyedCommand i = true)
    (h : ReportsFirst (ErrorApplies i s) s order u) :
    ReportsFirst (ErrorApplies i s) s (.notKeyed :: order) (withKey s u) := by
  rw [withKey_eq]
  split
  next h1 => exact .later (fun ⟨_, h0⟩ => by simp [h1] at h0) h
  next h1 => exact .first (e := .notKeyed) ⟨hkeyed, (keyValid_cases s.keyValid).resolve_right h1⟩

theorem reportsFirst_of_unkeyed (hunkeyed : keyedCommand i = false) (h : ReportsFirst (ErrorApplies i s) s order t) :
    ReportsFirst (ErrorApplies i s) s (.notKeyed :: order) t :=
  .later (fun ⟨hkeyed, _⟩ => by simp [hunkeyed] at hkeyed) h

/-! ## Errors of the data (R304, R308 to R311) -/

/-- The errors found from the data, in the order of R302. -/
def dataErrors : List ErrorKind :=
  [.invalidRounds, .unsupportedWordSize, .emptyKeyRejected, .invalidCiphertext, .paddingValidationFailure]

/-- The commands that R309 and R310 name, which R302 calls decrypting. -/
def decryptingCommand : Instr → Bool
  | .cbcdec | .unpad | .b64dec | .decrypt => true
  | .keyset _ | .keysetb _ | .skread | .cfgrd | .encblk | .decblk | .cbcenc | .pad | .utf8enc | .utf8dec | .b64enc
  | .hexof | .wadd | .wsub | .wxor | .wrotl | .wrotr | .b2w | .w2b | .encrypt => false

/-- Items 4 to 6 of R302 apply only to key setups. -/
theorem not_keySetupError (hset : keySetupCommand i = false) :
    ∀ e ∈ [ErrorKind.invalidRounds, .unsupportedWordSize, .emptyKeyRejected], ¬ ErrorApplies i s e := by
  have hne : ∀ k, ¬ (i = .keyset k ∨ i = .keysetb k) := fun k hi => by simp [keySetupCommand_of_eq hi] at hset
  simp [ErrorApplies, hne, hset]

/-- Items 7 and 8 of R302 apply only to decrypting commands. -/
theorem not_decryptingError (hdec : decryptingCommand i = false) :
    ∀ e ∈ [ErrorKind.invalidCiphertext, .paddingValidationFailure], ¬ ErrorApplies i s e := by
  have hne : i ≠ .cbcdec ∧ i ≠ .unpad ∧ i ≠ .b64dec ∧ i ≠ .decrypt := by
    refine ⟨?_, ?_, ?_, ?_⟩ <;> rintro rfl <;> cases hdec
  simp [ErrorApplies, hne]

theorem reportsFirst_dataErrors_of_ok (hset : keySetupCommand i = false) (hdec : decryptingCommand i = false)
    (ht : t.status = 0x00#8) : ReportsFirst (ErrorApplies i s) s dataErrors t :=
  reportsFirst_of_ok (List.forall_mem_append.2 ⟨not_keySetupError hset, not_decryptingError hdec⟩) ht

theorem reportsFirst_dataErrors_of_not_keySetup (hset : keySetupCommand i = false)
    (h : ReportsFirst (ErrorApplies i s) s [.invalidCiphertext, .paddingValidationFailure] t) :
    ReportsFirst (ErrorApplies i s) s dataErrors t := by
  have hnone := not_keySetupError (s := s) hset
  exact .later (hnone _ (by simp)) (.later (hnone _ (by simp)) (.later (hnone _ (by simp)) h))

theorem errorApplies_invalidRounds_iff (hi : i = .keyset k ∨ i = .keysetb k) :
    ErrorApplies i s .invalidRounds ↔ effectiveRounds k < 1 ∨ 255 < effectiveRounds k := by
  rcases hi with rfl | rfl <;> simp [ErrorApplies]

theorem errorApplies_unsupportedWordSize_iff (hi : i = .keyset k ∨ i = .keysetb k) :
    ErrorApplies i s .unsupportedWordSize ↔ effectiveWordSize k ≠ 64 := by
  rcases hi with rfl | rfl <;> simp [ErrorApplies]

/-- The checks of a key setup are items 4 to 6 of R302 in their order, its key being empty where its payload is. -/
theorem reportsFirst_keySetup {key : List Byte} (hi : i = .keyset k ∨ i = .keysetb k)
    (hkey : key = [] ↔ s.input.length = 0) :
    ReportsFirst (ErrorApplies i s) s dataErrors (keySetup k key s) := by
  have hrounds := errorApplies_invalidRounds_iff (s := s) hi
  have hsize := errorApplies_unsupportedWordSize_iff (s := s) hi
  have hempty : ErrorApplies i s .emptyKeyRejected ↔ key = [] ∧ s.build.emptyKey = .reject := by
    simp [ErrorApplies, keySetupCommand_of_eq hi, hkey]
  have hdec : decryptingCommand i = false := by rcases hi with rfl | rfl <;> rfl
  rw [keySetup_cases]
  split
  next hr => exact .first (hrounds.2 hr)
  next hr =>
  refine .later (mt hrounds.1 hr) ?_
  split
  next hw => exact .first (hsize.2 hw)
  next hw =>
  refine .later (mt hsize.1 hw) ?_
  split
  next he => exact .first (hempty.2 he)
  next he => exact .later (mt hempty.1 he) (reportsFirst_of_ok (not_decryptingError hdec) rfl)

theorem utf8Encode_eq_nil_iff (us : List CodeUnit) : utf8Encode us = [] ↔ us = [] := by
  refine ⟨fun h => ?_, fun h => h ▸ utf8Encode_nil⟩
  rw [← utf8Decode_utf8Encode us, h, utf8Decode_nil]

theorem cbcDecrypt_eq_none_iff {S : List Word} {r : Nat} {d : List Byte} :
    cbcDecrypt S r d = none ↔ BadCiphertextLength d.length := by
  refine ⟨fun h => ?_, cbcDecrypt_of_bad S r⟩
  by_contra hgood
  simp [cbcDecrypt_of_good S r hgood] at h

theorem unpadBytes_eq_none_iff {policy : UnpadPolicy} {d : List Byte} :
    unpadBytes policy d = none ↔ policy = .failClosed ∧ padValid d = false := by
  cases policy <;> cases hvalid : padValid d <;> simp [unpadBytes, hvalid]

/-! ## Every command -/

/-- Command `i`, run in `s`, ends with the first error of R302 that applies to it, or with a success. -/
def CommandReportsFirst (i : Instr) (s : State) : Prop :=
  ∃ t, exec i s = .next t ∧
    ReportsFirst (ErrorApplies i s) s (.malformedPayload :: .notKeyed :: dataErrors) t

theorem commandReportsFirst_cbcdec (s : State) : CommandReportsFirst .cbcdec s := by
  refine ⟨_, rfl, reportsFirst_withBytes rfl (fun _ => rfl) fun d hin => reportsFirst_withKey rfl
    (reportsFirst_dataErrors_of_not_keySetup rfl ?_)⟩
  have hbad : ErrorApplies .cbcdec s .invalidCiphertext ↔ cbcDecrypt s.table s.cfgRounds.toNat d = none := by
    simp [ErrorApplies, hin, Payload.length, cbcDecrypt_eq_none_iff]
  split
  next hp => exact .first (hbad.2 hp)
  next hp => exact .later (by simp [hbad, hp]) (reportsFirst_of_ok (by simp [ErrorApplies]) rfl)

theorem commandReportsFirst_unpad (s : State) : CommandReportsFirst .unpad s := by
  refine ⟨_, rfl, reportsFirst_withBytes rfl (fun _ => rfl) fun d hin => reportsFirst_of_unkeyed rfl
    (reportsFirst_dataErrors_of_not_keySetup rfl (.later (by simp [ErrorApplies]) ?_))⟩
  have hpad : ErrorApplies .unpad s .paddingValidationFailure ↔ unpadBytes s.build.unpad d = none := by
    simp [ErrorApplies, hin, unpadBytes_eq_none_iff]
  split
  next hu => exact .first (hpad.2 hu)
  next hu => exact .later (by simp [hpad, hu]) (.ok rfl)

theorem commandReportsFirst_b64dec (s : State) : CommandReportsFirst .b64dec s := by
  refine ⟨_, rfl, reportsFirst_withText rfl (fun _ => rfl) fun us hin => reportsFirst_of_unkeyed rfl
    (reportsFirst_dataErrors_of_not_keySetup rfl ?_)⟩
  have hbad : ErrorApplies .b64dec s .invalidCiphertext ↔ b64Decode us = none := by simp [ErrorApplies, hin]
  split
  next hd => exact .first (hbad.2 hd)
  next hd => exact .later (by simp [hbad, hd]) (reportsFirst_of_ok (by simp [ErrorApplies]) rfl)

/-- DECRYPT's chain fails first where the first of R309 and R310 applies. -/
theorem commandReportsFirst_decrypt (s : State) : CommandReportsFirst .decrypt s := by
  refine ⟨_, rfl, reportsFirst_withText rfl (fun _ => rfl) fun us hin => reportsFirst_withKey rfl
    (reportsFirst_dataErrors_of_not_keySetup rfl ?_)⟩
  have hbad : ErrorApplies .decrypt s .invalidCiphertext ↔
      ∀ d, b64Decode us = some d → cbcDecrypt s.table s.cfgRounds.toNat d = none := by
    simp [ErrorApplies, hin, cbcDecrypt_eq_none_iff]
  have hpad : ErrorApplies .decrypt s .paddingValidationFailure ↔ ∃ d p, b64Decode us = some d ∧
      cbcDecrypt s.table s.cfgRounds.toNat d = some p ∧ unpadBytes s.build.unpad p = none := by
    simp [ErrorApplies, hin, unpadBytes_eq_none_iff, and_left_comm]
  cases hd : b64Decode us with
  | none =>
    rw [decryptText_of_b64Decode_none hd]
    exact .first (hbad.2 (by simp [hd]))
  | some d =>
  cases hp : cbcDecrypt s.table s.cfgRounds.toNat d with
  | none =>
    rw [decryptText_of_cbcDecrypt_none hd hp]
    exact .first (hbad.2 (by simp [hd, hp]))
  | some p =>
  refine .later (by simp [hbad, hd, hp]) ?_
  cases hu : unpadBytes s.build.unpad p with
  | none =>
    rw [decryptText_of_unpadBytes_none hd hp hu]
    exact .first (hpad.2 ⟨d, p, hd, hp, hu⟩)
  | some u =>
    rw [decryptText_of_unpadBytes_some hd hp hu]
    exact .later (by simp [hpad, hd, hp, hu]) (.ok rfl)

/-- Every command checks its payload, then KEYVALID where it is keyed, then its data. -/
theorem commandReportsFirst (i : Instr) (s : State) : CommandReportsFirst i s := by
  cases i with
  | keyset k =>
    refine ⟨_, rfl, reportsFirst_withText rfl (fun _ => rfl) fun us hin => reportsFirst_of_unkeyed rfl ?_⟩
    exact reportsFirst_keySetup (.inl rfl) (by simp [hin, Payload.length, utf8Encode_eq_nil_iff])
  | keysetb k =>
    refine ⟨_, rfl, reportsFirst_withBytes rfl (fun _ => rfl) fun bs hin => reportsFirst_of_unkeyed rfl ?_⟩
    exact reportsFirst_keySetup (.inr rfl) (by simp [hin, Payload.length])
  | skread | encblk | decblk | cbcenc =>
    exact ⟨_, rfl, reportsFirst_withBytes rfl (fun _ => rfl) fun _ _ =>
      reportsFirst_withKey rfl (reportsFirst_dataErrors_of_ok rfl rfl rfl)⟩
  | encrypt =>
    exact ⟨_, rfl, reportsFirst_withText rfl (fun _ => rfl) fun _ _ =>
      reportsFirst_withKey rfl (reportsFirst_dataErrors_of_ok rfl rfl rfl)⟩
  | cfgrd | pad | utf8dec | b64enc | hexof | b2w =>
    exact ⟨_, rfl, reportsFirst_withBytes rfl (fun _ => rfl) fun _ _ =>
      reportsFirst_of_unkeyed rfl (reportsFirst_dataErrors_of_ok rfl rfl rfl)⟩
  | utf8enc =>
    exact ⟨_, rfl, reportsFirst_withText rfl (fun _ => rfl) fun _ _ =>
      reportsFirst_of_unkeyed rfl (reportsFirst_dataErrors_of_ok rfl rfl rfl)⟩
  | w2b =>
    exact ⟨_, rfl, reportsFirst_withWords rfl (fun _ => rfl) fun _ =>
      reportsFirst_of_unkeyed rfl (reportsFirst_dataErrors_of_ok rfl rfl rfl)⟩
  | wadd | wsub | wxor | wrotl | wrotr =>
    exact ⟨_, rfl, reportsFirst_withTwoWords rfl (fun _ => rfl) fun _ _ =>
      reportsFirst_of_unkeyed rfl (reportsFirst_dataErrors_of_ok rfl rfl rfl)⟩
  | cbcdec => exact commandReportsFirst_cbcdec s
  | unpad => exact commandReportsFirst_unpad s
  | b64dec => exact commandReportsFirst_b64dec s
  | decrypt => exact commandReportsFirst_decrypt s

/-! ## The command word (R305) -/

theorem wordErrorApplies_of_decode {w : BitVec 32} (hd : decode w = .ok i) :
    WordErrorApplies w s = ErrorApplies i s := by
  have hlegal : ¬ IllegalWord w := exists_decode_eq_ok_iff.1 ⟨i, hd⟩
  funext e
  simp [WordErrorApplies, hlegal, hd]

/-- A step on a command finds the first error of R302, an illegal word before all others. -/
theorem step_reportsFirst {w : BitVec 32} {p : Payload} {rest : List HostMove}
    (h : s.host = .command w p :: rest) :
    ∃ t, step s = .next t ∧ ReportsFirst (WordErrorApplies w (taken s p rest)) (taken s p rest) priority t := by
  cases hd : decode w with
  | error d =>
    have hillegal : IllegalWord w := not_imp_comm.1 exists_decode_eq_ok_iff.2 (by simp [hd])
    exact ⟨_, step_of_illegal h hd, .first (.inl ⟨rfl, hillegal⟩)⟩
  | ok i =>
    obtain ⟨t, ht, hfirst⟩ := commandReportsFirst i (taken s p rest)
    rw [wordErrorApplies_of_decode hd]
    exact ⟨t, (step_of_command h hd).trans ht, .later (e := .illegalCommand) id hfirst⟩

end Sys2Proof.Laws
end

section
/-! PROOF. The obligations of 60_exceptions.md. -/

namespace Sys2Proof.Laws

open Sys2Proof.Machine Sys2Proof.Claims

/-- Settles O19: the checks of every command follow the order of R302, in which no error stands twice. -/
theorem oneStatusByPriority : Obligations.OneStatusByPriority := by
  intro s w p rest hhost
  obtain ⟨t, ht, hfirst⟩ := step_reportsFirst hhost
  have hall : ∀ e, e ∈ priority := fun e => by cases e <;> decide
  exact ⟨t, ht, (hfirst.error_or_ok (by decide)).imp_right fun ⟨hnone, hok⟩ => ⟨fun e => hnone e (hall e), hok⟩⟩

/-- Settles O18: a status other than OK is that of a first error, and such an error leaves nothing else. -/
theorem errorsArePrecise : Obligations.ErrorsArePrecise := by
  intro s t w p rest hhost h herr
  obtain ⟨t', ht, ⟨e, -, hrej⟩ | ⟨-, hok⟩⟩ := oneStatusByPriority s w p rest hhost
  all_goals obtain rfl : t = t' := by simpa [h] using ht
  · rw [hrej, rejected_status]
  · exact absurd hok herr

/-- Settles O20: the payload check is the first check of every command. -/
theorem malformedPayloadComesFirst : Obligations.MalformedPayloadComesFirst := by
  intro i s hmal
  obtain ⟨t, ht, hfirst⟩ := commandReportsFirst i s
  cases hfirst with
  | first => exact ht
  | later hwell => exact absurd hmal hwell

end Sys2Proof.Laws
end

section
/-! PROOF. The obligations of 70_reset_and_hazards.md. -/

namespace Sys2Proof.Laws

open Sys2Proof.Machine Sys2Proof.Claims

variable {i : Instr} {s t : State}

theorem Ending.host_eq (he : Ending i s t) : t.host = s.host := by cases he <;> rfl

/-- Every step uses up the move it takes. -/
theorem StepEnding.host_eq (h : StepEnding s t) : t.host = s.host.tail := by
  cases h with
  | idle hhost => rw [hhost, List.tail_nil]
  | reset hhost | illegal hhost => rw [hhost]; rfl
  | command hhost _ he => rw [he.host_eq, hhost]; rfl

/-- A run goes on from where its first step leads. -/
theorem run_succ_of_step {M : Host.Core} {s t : M.State} (h : M.step s = .next t) (n : Nat) :
    M.run (n + 1) s = M.run n t := by
  rw [Host.Core.run, h]

/-- Settles O7: both moves leave the reset state. -/
theorem resetRestoresRegisters : Obligations.ResetRestoresRegisters := fun _ _ _ hhost hm =>
  ⟨_, step_of_reset hhost hm, rfl, rfl, rfl, rfl, rfl, rfl, rfl, rfl, nofun⟩

/-- Settles O8: a step ends in one of four ways, each with the rest of the host's moves. -/
theorem everyMoveCompletes : Obligations.EveryMoveCompletes := by
  intro s
  obtain ⟨t, ht, he⟩ := step_cases s
  refine ⟨t, ht, he.host_eq, fun hidle => ?_⟩
  rw [step_of_nil hidle] at ht
  cases ht
  rfl

/-- Settles O9, by induction on the commands: the first step takes the first of them and gives its one response. -/
theorem runAnswersEveryCommand : Obligations.RunAnswersEveryCommand := by
  intro cs
  induction cs with
  | nil => exact fun s hhost => ⟨s, rfl, hhost, [], rfl, rfl⟩
  | cons c cs ih =>
    intro s hhost
    obtain ⟨-, hanswer⟩ := everyCommandAnswersOnce
    obtain ⟨t, r, ht, hr, -⟩ := hanswer s c.1 c.2 _ hhost
    have htail : t.host = cs.map fun c => HostMove.command c.1 c.2 := by
      rw [(stepEnding_of_step ht).host_eq, hhost]
      rfl
    obtain ⟨u, hu, hdone, rs, hlen, hrs⟩ := ih t htail
    refine ⟨u, (run_succ_of_step (M := Sys2Proof.core) ht _).trans hu, hdone, rs ++ [r], by simp [hlen], ?_⟩
    rw [hrs, hr, List.append_assoc, List.singleton_append]

end Sys2Proof.Laws
end
